-- ==== Sys2Proof/Word.lean ====
section
/-! DEFINITION. The machine's word types (00_scope.md R8, R11; 30_encoding.md R301). -/

namespace Sys2Proof

/-- An 8-bit unsigned value: a V register, a timer, a byte of memory (00_scope.md R11). -/
abbrev Byte := BitVec 8

/-- A 16-bit unsigned value: I, PC, a return address, an instruction word (00_scope.md R11). -/
abbrev Word := BitVec 16

/-- A register selector, the 4-bit field x or y of an instruction word (30_encoding.md R301). -/
abbrev Reg := BitVec 4

/-- A 12-bit address field NNN (30_encoding.md R301). -/
abbrev Addr := BitVec 12

/-- A keypad key, 0 to 15 (00_scope.md R8). -/
abbrev Key := BitVec 4

/-- The number of a display pixel, 64 * row + column (10_state.md R112). -/
abbrev Pixel := Fin 2048

/-- The display buffer: 32 rows of 64 one-bit pixels; column c of a row is bit c of it
(10_state.md R112; log 17). -/
abbrev Framebuffer := Vector (BitVec 64) 32

/-- The size of memory in bytes, `MEM_SIZE` (00_scope.md R8). -/
def memSize : Nat := 4096

/-- Where a program image is loaded, `LOAD_BASE` (00_scope.md R8). -/
def loadBase : Nat := 0x200

/-- Instructions per frame, `BATCH` (00_scope.md R8). -/
def batch : Nat := 10

end Sys2Proof
end

