-- ==== Sys2Proof/Syntax.lean ====
section
/-! DEFINITION. The instructions: one constructor for each of the 35 rows of
spec/opcode_table.json (30_encoding.md R310), in the table's order. -/

namespace Sys2Proof

/-- An instruction with its operands: register selectors x and y, immediate NN, address NNN and the
row count n (30_encoding.md R301, R302). -/
inductive Instr where
  /-- 0000 HALT (R400) -/
  | halt
  /-- 00E0 CLS (R401) -/
  | cls
  /-- 00EE RET (R402) -/
  | ret
  /-- 1NNN JP NNN (R403) -/
  | jp (nnn : Addr)
  /-- 2NNN CALL NNN (R404) -/
  | call (nnn : Addr)
  /-- 3XNN SE Vx, NN (R421) -/
  | seImm (x : Reg) (nn : Byte)
  /-- 4XNN SNE Vx, NN (R422) -/
  | sneImm (x : Reg) (nn : Byte)
  /-- 5XY0 SE Vx, Vy (R423) -/
  | seReg (x y : Reg)
  /-- 6XNN LD Vx, NN (R440) -/
  | ldImm (x : Reg) (nn : Byte)
  /-- 7XNN ADD Vx, NN (R441) -/
  | addImm (x : Reg) (nn : Byte)
  /-- 8XY0 LD Vx, Vy (R462) -/
  | ldReg (x y : Reg)
  /-- 8XY1 OR Vx, Vy (R463) -/
  | orReg (x y : Reg)
  /-- 8XY2 AND Vx, Vy (R464) -/
  | andReg (x y : Reg)
  /-- 8XY3 XOR Vx, Vy (R465) -/
  | xorReg (x y : Reg)
  /-- 8XY4 ADD Vx, Vy (R466) -/
  | addReg (x y : Reg)
  /-- 8XY5 SUB Vx, Vy (R467) -/
  | subReg (x y : Reg)
  /-- 8XY6 SHR Vx, Vy (R468) -/
  | shr (x y : Reg)
  /-- 8XY7 SUBN Vx, Vy (R469) -/
  | subnReg (x y : Reg)
  /-- 8XYE SHL Vx, Vy (R470) -/
  | shl (x y : Reg)
  /-- 9XY0 SNE Vx, Vy (R424) -/
  | sneReg (x y : Reg)
  /-- ANNN LD I, NNN (R500) -/
  | ldI (nnn : Addr)
  /-- BNNN JP V0, NNN (R501) -/
  | jpV0 (nnn : Addr)
  /-- CXNN RND Vx, NN (R502) -/
  | rnd (x : Reg) (nn : Byte)
  /-- DXYN DRW Vx, Vy, N (R520); n is a count, which WellFormed bounds by 15 -/
  | drw (x y : Reg) (n : Nat)
  /-- EX9E SKP Vx (R561) -/
  | skp (x : Reg)
  /-- EXA1 SKNP Vx (R562) -/
  | sknp (x : Reg)
  /-- FX07 LD Vx, DT (R580) -/
  | ldVxDt (x : Reg)
  /-- FX0A LD Vx, K (R583) -/
  | ldVxK (x : Reg)
  /-- FX15 LD DT, Vx (R581) -/
  | ldDtVx (x : Reg)
  /-- FX18 LD ST, Vx (R582) -/
  | ldStVx (x : Reg)
  /-- FX1E ADD I, Vx (R584) -/
  | addI (x : Reg)
  /-- FX29 LD F, Vx (R585) -/
  | ldF (x : Reg)
  /-- FX33 LD B, Vx (R590) -/
  | ldB (x : Reg)
  /-- FX55 LD [I], Vx (R591) -/
  | storeRegs (x : Reg)
  /-- FX65 LD Vx, [I] (R592) -/
  | loadRegs (x : Reg)
deriving DecidableEq, Repr

end Sys2Proof
end

