-- ==== Sys2Proof/WellFormed.lean ====
section
/-! DEFINITION. Which instruction terms stand for an instruction word.  Every operand but one has
the type of its field (30_encoding.md R301), so it fits by its type; the row count of DXYN is a
number, "an unsigned count from 0 to 15" (R302), and is checked here. -/

namespace Sys2Proof

/-- The check of an instruction term's operands against their fields (30_encoding.md R302). -/
def Instr.wf : Instr → Bool
  | .halt | .cls | .ret => true
  | .jp _ | .call _ | .ldI _ | .jpV0 _ => true
  | .seImm _ _ | .sneImm _ _ | .ldImm _ _ | .addImm _ _ | .rnd _ _ => true
  | .seReg _ _ | .sneReg _ _ => true
  | .ldReg _ _ | .orReg _ _ | .andReg _ _ | .xorReg _ _ | .addReg _ _ | .subReg _ _ => true
  | .shr _ _ | .subnReg _ _ | .shl _ _ => true
  | .drw _ _ n => decide (n ≤ 15)
  | .skp _ | .sknp _ => true
  | .ldVxDt _ | .ldVxK _ | .ldDtVx _ | .ldStVx _ | .addI _ | .ldF _ => true
  | .ldB _ | .storeRegs _ | .loadRegs _ => true

/-- An instruction term that stands for an instruction word. -/
abbrev Instr.WellFormed (i : Instr) : Prop := i.wf = true

end Sys2Proof
end

