-- ==== Sys2Proof/Decode.lean ====
section
/-! DEFINITION. From bytes to an instruction, and back (30_encoding.md R300 to R312). -/

namespace Sys2Proof

/-! ## The fields of a word (R301) -/

/-- `c` = w[15:12]. -/
def fieldC (w : Word) : BitVec 4 := w.extractLsb' 12 4

/-- `x` = w[11:8]. -/
def fieldX (w : Word) : Reg := w.extractLsb' 8 4

/-- `y` = w[7:4]. -/
def fieldY (w : Word) : Reg := w.extractLsb' 4 4

/-- `n` = w[3:0]. -/
def fieldN (w : Word) : BitVec 4 := w.extractLsb' 0 4

/-- `NN` = w[7:0]. -/
def fieldNN (w : Word) : Byte := w.extractLsb' 0 8

/-- `NNN` = w[11:0]. -/
def fieldNNN (w : Word) : Addr := w.extractLsb' 0 12

/-! ## Decoding (R310, R311, R312) -/

/-- Class 0: three full words; every other word is illegal (R312). -/
def decodeClass0 (w : Word) : Option Instr :=
  if w = 0x0000#16 then some .halt
  else if w = 0x00E0#16 then some .cls
  else if w = 0x00EE#16 then some .ret
  else none

/-- Class 8: the sub-operation is n (R310 rows 11 to 19). -/
def decodeClass8 (w : Word) : Option Instr :=
  match (fieldN w).toNat with
  | 0x0 => some (.ldReg (fieldX w) (fieldY w))
  | 0x1 => some (.orReg (fieldX w) (fieldY w))
  | 0x2 => some (.andReg (fieldX w) (fieldY w))
  | 0x3 => some (.xorReg (fieldX w) (fieldY w))
  | 0x4 => some (.addReg (fieldX w) (fieldY w))
  | 0x5 => some (.subReg (fieldX w) (fieldY w))
  | 0x6 => some (.shr (fieldX w) (fieldY w))
  | 0x7 => some (.subnReg (fieldX w) (fieldY w))
  | 0xE => some (.shl (fieldX w) (fieldY w))
  | _ => none

/-- Class E: the sub-operation is NN (R310 rows 25 and 26). -/
def decodeClassE (w : Word) : Option Instr :=
  if fieldNN w = 0x9E#8 then some (.skp (fieldX w))
  else if fieldNN w = 0xA1#8 then some (.sknp (fieldX w))
  else none

/-- Class F: the sub-operation is NN (R310 rows 27 to 35). -/
def decodeClassF (w : Word) : Option Instr :=
  if fieldNN w = 0x07#8 then some (.ldVxDt (fieldX w))
  else if fieldNN w = 0x0A#8 then some (.ldVxK (fieldX w))
  else if fieldNN w = 0x15#8 then some (.ldDtVx (fieldX w))
  else if fieldNN w = 0x18#8 then some (.ldStVx (fieldX w))
  else if fieldNN w = 0x1E#8 then some (.addI (fieldX w))
  else if fieldNN w = 0x29#8 then some (.ldF (fieldX w))
  else if fieldNN w = 0x33#8 then some (.ldB (fieldX w))
  else if fieldNN w = 0x55#8 then some (.storeRegs (fieldX w))
  else if fieldNN w = 0x65#8 then some (.loadRegs (fieldX w))
  else none

/-- The instruction a word stands for, or none: the opcode map of R310. -/
def decodeWord (w : Word) : Option Instr :=
  match (fieldC w).toNat with
  | 0x0 => decodeClass0 w
  | 0x1 => some (.jp (fieldNNN w))
  | 0x2 => some (.call (fieldNNN w))
  | 0x3 => some (.seImm (fieldX w) (fieldNN w))
  | 0x4 => some (.sneImm (fieldX w) (fieldNN w))
  | 0x5 => if fieldN w = 0#4 then some (.seReg (fieldX w) (fieldY w)) else none
  | 0x6 => some (.ldImm (fieldX w) (fieldNN w))
  | 0x7 => some (.addImm (fieldX w) (fieldNN w))
  | 0x8 => decodeClass8 w
  | 0x9 => if fieldN w = 0#4 then some (.sneReg (fieldX w) (fieldY w)) else none
  | 0xA => some (.ldI (fieldNNN w))
  | 0xB => some (.jpV0 (fieldNNN w))
  | 0xC => some (.rnd (fieldX w) (fieldNN w))
  | 0xD => some (.drw (fieldX w) (fieldY w) (fieldN w).toNat)
  | 0xE => decodeClassE w
  | _ => decodeClassF w

/-- Why bytes are no instruction. -/
inductive DecodeError where
  /-- fewer than two bytes -/
  | truncated
  /-- the word matches no row of R310 (R312) -/
  | illegal (w : Word)
deriving DecidableEq, Repr

/-- The word of two bytes: the byte at the lower address is w[15:8] (20_memory.md R202). -/
def wordOfBytes (hi lo : Byte) : Word := hi ++ lo

/-- Decode the first instruction of some bytes and give the bytes after it (R300, R314). -/
def decode : List Byte → Except DecodeError (Instr × List Byte)
  | hi :: lo :: rest =>
    match decodeWord (wordOfBytes hi lo) with
    | some i => .ok (i, rest)
    | none => .error (.illegal (wordOfBytes hi lo))
  | _ => .error .truncated

/-! ## Encoding (R303) -/

/-- Format A: class, NNN. -/
def formatA (c : BitVec 4) (nnn : Addr) : Word := c ++ nnn

/-- Formats XNN and XOP: class, x, NN. -/
def formatXNN (c : BitVec 4) (x : Reg) (nn : Byte) : Word := (c ++ x : BitVec 8) ++ nn

/-- Format XYN: class, x, y, n. -/
def formatXYN (c : BitVec 4) (x y : Reg) (n : BitVec 4) : Word :=
  (c ++ x : BitVec 8) ++ (y ++ n : BitVec 8)

/-- The word of an instruction (R303, R310). -/
def encodeWord : Instr → Word
  | .halt => 0x0000#16
  | .cls => 0x00E0#16
  | .ret => 0x00EE#16
  | .jp nnn => formatA 0x1#4 nnn
  | .call nnn => formatA 0x2#4 nnn
  | .seImm x nn => formatXNN 0x3#4 x nn
  | .sneImm x nn => formatXNN 0x4#4 x nn
  | .seReg x y => formatXYN 0x5#4 x y 0x0#4
  | .ldImm x nn => formatXNN 0x6#4 x nn
  | .addImm x nn => formatXNN 0x7#4 x nn
  | .ldReg x y => formatXYN 0x8#4 x y 0x0#4
  | .orReg x y => formatXYN 0x8#4 x y 0x1#4
  | .andReg x y => formatXYN 0x8#4 x y 0x2#4
  | .xorReg x y => formatXYN 0x8#4 x y 0x3#4
  | .addReg x y => formatXYN 0x8#4 x y 0x4#4
  | .subReg x y => formatXYN 0x8#4 x y 0x5#4
  | .shr x y => formatXYN 0x8#4 x y 0x6#4
  | .subnReg x y => formatXYN 0x8#4 x y 0x7#4
  | .shl x y => formatXYN 0x8#4 x y 0xE#4
  | .sneReg x y => formatXYN 0x9#4 x y 0x0#4
  | .ldI nnn => formatA 0xA#4 nnn
  | .jpV0 nnn => formatA 0xB#4 nnn
  | .rnd x nn => formatXNN 0xC#4 x nn
  | .drw x y n => formatXYN 0xD#4 x y (BitVec.ofNat 4 n)
  | .skp x => formatXNN 0xE#4 x 0x9E#8
  | .sknp x => formatXNN 0xE#4 x 0xA1#8
  | .ldVxDt x => formatXNN 0xF#4 x 0x07#8
  | .ldVxK x => formatXNN 0xF#4 x 0x0A#8
  | .ldDtVx x => formatXNN 0xF#4 x 0x15#8
  | .ldStVx x => formatXNN 0xF#4 x 0x18#8
  | .addI x => formatXNN 0xF#4 x 0x1E#8
  | .ldF x => formatXNN 0xF#4 x 0x29#8
  | .ldB x => formatXNN 0xF#4 x 0x33#8
  | .storeRegs x => formatXNN 0xF#4 x 0x55#8
  | .loadRegs x => formatXNN 0xF#4 x 0x65#8

/-- The two bytes of a word, high byte first (20_memory.md R202). -/
def bytesOfWord (w : Word) : List Byte := [w.extractLsb' 8 8, w.extractLsb' 0 8]

/-- The bytes of an instruction as memory holds them. -/
def encode (i : Instr) : List Byte := bytesOfWord (encodeWord i)

/-! ## The opcode map as a table (R310) -/

/-- A row of R310: a word w selects it when `w & mask = match`. -/
structure OpRow where
  mask : Word
  value : Word
deriving DecidableEq, Repr

/-- A word selects a row (R310). -/
def OpRow.selects (r : OpRow) (w : Word) : Bool := w &&& r.mask == r.value

/-- The row of R310 of each instruction. -/
def Instr.row : Instr → OpRow
  | .halt => ⟨0xFFFF, 0x0000⟩
  | .cls => ⟨0xFFFF, 0x00E0⟩
  | .ret => ⟨0xFFFF, 0x00EE⟩
  | .jp _ => ⟨0xF000, 0x1000⟩
  | .call _ => ⟨0xF000, 0x2000⟩
  | .seImm _ _ => ⟨0xF000, 0x3000⟩
  | .sneImm _ _ => ⟨0xF000, 0x4000⟩
  | .seReg _ _ => ⟨0xF00F, 0x5000⟩
  | .ldImm _ _ => ⟨0xF000, 0x6000⟩
  | .addImm _ _ => ⟨0xF000, 0x7000⟩
  | .ldReg _ _ => ⟨0xF00F, 0x8000⟩
  | .orReg _ _ => ⟨0xF00F, 0x8001⟩
  | .andReg _ _ => ⟨0xF00F, 0x8002⟩
  | .xorReg _ _ => ⟨0xF00F, 0x8003⟩
  | .addReg _ _ => ⟨0xF00F, 0x8004⟩
  | .subReg _ _ => ⟨0xF00F, 0x8005⟩
  | .shr _ _ => ⟨0xF00F, 0x8006⟩
  | .subnReg _ _ => ⟨0xF00F, 0x8007⟩
  | .shl _ _ => ⟨0xF00F, 0x800E⟩
  | .sneReg _ _ => ⟨0xF00F, 0x9000⟩
  | .ldI _ => ⟨0xF000, 0xA000⟩
  | .jpV0 _ => ⟨0xF000, 0xB000⟩
  | .rnd _ _ => ⟨0xF000, 0xC000⟩
  | .drw _ _ _ => ⟨0xF000, 0xD000⟩
  | .skp _ => ⟨0xF0FF, 0xE09E⟩
  | .sknp _ => ⟨0xF0FF, 0xE0A1⟩
  | .ldVxDt _ => ⟨0xF0FF, 0xF007⟩
  | .ldVxK _ => ⟨0xF0FF, 0xF00A⟩
  | .ldDtVx _ => ⟨0xF0FF, 0xF015⟩
  | .ldStVx _ => ⟨0xF0FF, 0xF018⟩
  | .addI _ => ⟨0xF0FF, 0xF01E⟩
  | .ldF _ => ⟨0xF0FF, 0xF029⟩
  | .ldB _ => ⟨0xF0FF, 0xF033⟩
  | .storeRegs _ => ⟨0xF0FF, 0xF055⟩
  | .loadRegs _ => ⟨0xF0FF, 0xF065⟩

/-- The 35 rows of R310, in its order, as mask and match. -/
def opcodeRows : List OpRow :=
  [⟨0xFFFF, 0x0000⟩, ⟨0xFFFF, 0x00E0⟩, ⟨0xFFFF, 0x00EE⟩, ⟨0xF000, 0x1000⟩, ⟨0xF000, 0x2000⟩,
   ⟨0xF000, 0x3000⟩, ⟨0xF000, 0x4000⟩, ⟨0xF00F, 0x5000⟩, ⟨0xF000, 0x6000⟩, ⟨0xF000, 0x7000⟩,
   ⟨0xF00F, 0x8000⟩, ⟨0xF00F, 0x8001⟩, ⟨0xF00F, 0x8002⟩, ⟨0xF00F, 0x8003⟩, ⟨0xF00F, 0x8004⟩,
   ⟨0xF00F, 0x8005⟩, ⟨0xF00F, 0x8006⟩, ⟨0xF00F, 0x8007⟩, ⟨0xF00F, 0x800E⟩, ⟨0xF00F, 0x9000⟩,
   ⟨0xF000, 0xA000⟩, ⟨0xF000, 0xB000⟩, ⟨0xF000, 0xC000⟩, ⟨0xF000, 0xD000⟩, ⟨0xF0FF, 0xE09E⟩,
   ⟨0xF0FF, 0xE0A1⟩, ⟨0xF0FF, 0xF007⟩, ⟨0xF0FF, 0xF00A⟩, ⟨0xF0FF, 0xF015⟩, ⟨0xF0FF, 0xF018⟩,
   ⟨0xF0FF, 0xF01E⟩, ⟨0xF0FF, 0xF029⟩, ⟨0xF0FF, 0xF033⟩, ⟨0xF0FF, 0xF055⟩, ⟨0xF0FF, 0xF065⟩]

/-! ## The host's question about one table word -/

/-- The bytes of the instruction whose bits below nbits are w's, as memory holds them. -/
def tableBytes (nbits w : Nat) : List Byte := bytesOfWord (BitVec.ofNat 16 (w % 2 ^ nbits))

/-- The instruction the decoder reads from a word of spec/opcode_table.json. -/
def decodeTableWord (nbits w : Nat) : Option Instr :=
  match decode (tableBytes nbits w) with
  | .ok (i, _) => some i
  | .error _ => none

end Sys2Proof
end

