-- ==== Sys2Proof/Config.lean ====
section
/-! DEFINITION. The spec's parameters (00_scope.md R9) and the free values, the host's answers
(60_exceptions.md R740 to R746).  A free value is an opaque constant with no body: nothing can be
proved of its value, so a theorem holds for every answer the host may give. -/

namespace Sys2Proof

/-- `SHIFT_SOURCE`: which register SHR and SHL shift (00_scope.md R9, D8). -/
inductive ShiftSource where
  | x
  | y
deriving DecidableEq, Repr

/-- `SHL_VF_BIT`: which bit of the shifted value SHL puts in VF (00_scope.md R9, D9, conflict C1). -/
inductive ShlVfBit where
  | bit0
  | bit7
deriving DecidableEq, Repr

/-- `DRAW_VF_POLICY` (00_scope.md R9, D12).  `unfixed` is the model without the parameter, which
admits both values where `any` and `last` disagree (46_draw.md R524). -/
inductive DrawVfPolicy where
  | any
  | last
  | unfixed
deriving DecidableEq, Repr

/-- The parameters a machine is built with; no step writes them (00_scope.md R9; log 6). -/
structure Params where
  /-- `STACK_CAPACITY`; `none` is `unbounded`. -/
  stackCapacity : Option Nat
  shiftSource : ShiftSource
  shlVfBit : ShlVfBit
  drawVfPolicy : DrawVfPolicy
deriving DecidableEq, Repr

/-- The spec's defaults: unbounded, X, 0; DRAW_VF_POLICY has none and stays open
(00_scope.md R9; DESIGN CHOICE for the last, log 7). -/
def Params.default : Params :=
  { stackCapacity := none, shiftSource := .x, shlVfBit := .bit0, drawVfPolicy := .unfixed }

namespace Config

/-- `Rand()`: the byte CXNN draws at the n-th free input (45_index_jump_random.md R505, R746;
log 1). -/
opaque rand : Nat → Byte

/-- `Host.isKeyPressed(k)` at the n-th free input (60_exceptions.md R740; log 1). -/
opaque isKeyPressed : Nat → Key → Bool

/-- `Host.waitForKeyPress()` looked at as the n-th free input: the key, or `none` while the host has
not answered yet, which may be for ever (60_exceptions.md R741; log 2). -/
opaque waitForKeyPress : Nat → Option Key

/-- `Host.pollShutdownRequested()` at the n-th free input (60_exceptions.md R743; log 1). -/
opaque pollShutdownRequested : Nat → Bool

/-- VF after a DXYN for which `any` and `last` disagree, where DRAW_VF_POLICY is left open
(46_draw.md R524; log 7). -/
opaque drawVf : Nat → Bool

end Config
end Sys2Proof
end

