-- ==== Sys2Proof/Machine/State.lean ====
section
/-! DEFINITION. The machine's state as plain data (10_state.md), the reasons a step can stop, and the
state after reset (10_state.md R120, 70_reset_and_hazards.md R800). -/

namespace Sys2Proof.Machine

/-- Memory: the bytes that differ from what an unlisted address reads as, addresses strictly rising
(20_memory.md R200; the canonical form is `Memory.wf`; log 4). -/
abbrev Memory := List Host.Cell

/-- The diagnostic record of a fault: its kind, PC, the fetched word w and the recorded info
(60_exceptions.md R701). -/
inductive FaultRecord where
  /-- code 1: the fetched word matches no row of the opcode map (R707) -/
  | illegalInstruction (pc w : Word)
  /-- code 2: 00EE with an empty stack (R703) -/
  | stackUnderflow (pc w : Word)
  /-- code 3: 2NNN with a full stack, only under a finite STACK_CAPACITY (R704) -/
  | stackOverflow (pc w : Word)
  /-- code 4: fetch with PC > 0x0FFE (R706) -/
  | fetchOutOfBounds (pc : Word)
  /-- code 5: the smallest data address at or above 4096 (R705) -/
  | dataOutOfBounds (pc w : Word) (addr : Nat)
  /-- code 6: EX9E or EXA1 with V[x] > 15 (R708) -/
  | keyOutOfRange (pc w : Word) (key : Byte)
deriving DecidableEq, Repr

/-- The lifecycle state (10_state.md R114). -/
inductive Life where
  | unloaded
  | ready
  | waitingKey (x : Reg)
  | halted
  | faulted (f : FaultRecord)
  | stopped
deriving DecidableEq, Repr

/-- The scheduler's phase (10_state.md R115, 60_exceptions.md R720). -/
inductive Phase where
  | batch
  | push
  | poll
  | decrement
  | sleep
deriving DecidableEq, Repr

/-- The whole state of the engine (10_state.md), the parameters it was built with (00_scope.md R9)
and two fields of the model's own, `drawn` (log 1) and `frameOut` (log 11). -/
structure State where
  /-- V0 to VF (R100) -/
  v : Vector Byte 16
  /-- I (R103) -/
  idx : Word
  /-- PC (R104) -/
  pc : Word
  /-- DT (R109) -/
  dt : Byte
  /-- ST (R109) -/
  st : Byte
  /-- the call stack, head = top (R111) -/
  stack : List Word
  /-- memory (20_memory.md R200) -/
  mem : Memory
  /-- the display buffer (R112) -/
  fb : Framebuffer
  /-- the dirty flag (R113) -/
  dirty : Bool
  /-- the lifecycle state (R114) -/
  life : Life
  /-- instructions completed in the current frame (R115) -/
  slot : Nat
  /-- the scheduler's phase (R115) -/
  phase : Phase
  /-- a shutdown request was seen (R115) -/
  stopRequested : Bool
  /-- the parameters (00_scope.md R9; log 6) -/
  params : Params
  /-- how many free inputs have been consumed; the model's own (log 1) -/
  drawn : Nat
  /-- the buffer last sent on the pushFrame port (60_exceptions.md R742); the model's own (log 11) -/
  frameOut : Option Framebuffer
deriving DecidableEq, Repr

/-- Why a machine makes no further step.  Each is raised by `step`, never by an instruction: an
instruction that faults reaches a state whose `life` is `faulted`, and the step FROM that state
answers here (60_exceptions.md R702, R714; log 8, log 9). -/
inductive Fault where
  /-- raised by `step` in phase Sleep of the frame in which HALT ran: the run has ended normally
  (70_reset_and_hazards.md R803 (a)); safe, no event leaves Halted -/
  | halted
  /-- raised by `step` from life Stopped: the run has ended normally (R803 (b)); safe -/
  | stopped
  /-- raised by `step` from life Faulted: the fault ended the run (60_exceptions.md R702); safe -/
  | faulted (f : FaultRecord)
deriving DecidableEq, Repr

/-- Why a step is refused. -/
inductive Refusal where
  /-- raised by `exec` for an instruction without a meaning; safe; no arm uses it -/
  | notModelled (mnemonic : String)
  /-- raised by `step` from life Unloaded: running before loading is refused
  (70_reset_and_hazards.md R801, 60_exceptions.md R728); safe -/
  | unloaded
deriving DecidableEq, Repr

/-- What a step or an instruction answers. -/
abbrev Result := Host.Outcome State Fault Refusal

/-- The machine right after construction (10_state.md R120, 70_reset_and_hazards.md R800).  V and I
have no value in the spec and hold 0 here (DESIGN CHOICE, log 3), memory lists nothing (log 4, log 5),
the parameters are the spec's defaults (log 6, log 7). -/
def State.reset : State :=
  { v := Vector.replicate 16 0#8
    idx := 0#16
    pc := 0x200#16
    dt := 0#8
    st := 0#8
    stack := []
    mem := []
    fb := Vector.replicate 32 0#64
    dirty := false
    life := .unloaded
    slot := 0
    phase := .batch
    stopRequested := false
    params := Params.default
    drawn := 0
    frameOut := none }

end Sys2Proof.Machine
end

