-- ==== Sys2Proof/Machine/Ops.lean ====
section
/-! DEFINITION. The named operations over memory, registers, the call stack, the display buffer and
the program counter, and taking a fault. -/

namespace Sys2Proof.Machine

/-! ## Memory (20_memory.md) -/

/-- `FONT`'s default, the glyphs 0 to 7 (20_memory.md R205; log 5). -/
def fontLow : List Byte :=
  [0xF0, 0x90, 0x90, 0x90, 0xF0,  0x20, 0x60, 0x20, 0x20, 0x70,
   0xF0, 0x10, 0xF0, 0x80, 0xF0,  0xF0, 0x10, 0xF0, 0x10, 0xF0,
   0x90, 0x90, 0xF0, 0x10, 0x10,  0xF0, 0x80, 0xF0, 0x10, 0xF0,
   0xF0, 0x80, 0xF0, 0x90, 0xF0,  0xF0, 0x10, 0x20, 0x40, 0x40]

/-- `FONT`'s default, the glyphs 8 to F (20_memory.md R205; log 5). -/
def fontHigh : List Byte :=
  [0xF0, 0x90, 0xF0, 0x90, 0xF0,  0xF0, 0x90, 0xF0, 0x10, 0xF0,
   0xF0, 0x90, 0xF0, 0x90, 0x90,  0xE0, 0x90, 0xE0, 0x90, 0xE0,
   0xF0, 0x80, 0x80, 0x80, 0xF0,  0xE0, 0x90, 0x90, 0x90, 0xE0,
   0xF0, 0x80, 0xF0, 0x80, 0xF0,  0xF0, 0x80, 0xF0, 0x80, 0x80]

/-- The 80 bytes of the default `FONT`, glyph k at 5k (20_memory.md R205). -/
def fontBytes : List Byte := fontLow ++ fontHigh

/-- What an address that `mem` does not list reads as: the font at 0x000 to 0x04F (20_memory.md R205),
0 elsewhere (DESIGN CHOICE for INIT_MEM, log 4). -/
def unlisted (a : Nat) : Byte := fontBytes.getD a 0#8

/-- `MemRead(a, 1)` for an address already checked (00_scope.md R13). -/
def Memory.read : Memory → Nat → Byte
  | [], a => unlisted a
  | (k, b) :: rest, a => if k = a then b else Memory.read rest a

/-- Remove every entry of an address. -/
def Memory.erase : Memory → Nat → Memory
  | [], _ => []
  | (k, b) :: rest, a => if k = a then Memory.erase rest a else (k, b) :: Memory.erase rest a

/-- Put an entry before the first higher address. -/
def Memory.insert : Memory → Nat → Byte → Memory
  | [], a, v => [(a, v)]
  | (k, b) :: rest, a, v =>
    if a < k then (a, v) :: (k, b) :: rest else (k, b) :: Memory.insert rest a v

/-- `MemWrite(a, 1, v)` for an address already checked (00_scope.md R13): the byte is listed unless
it is what the address reads as unlisted. -/
def Memory.write (m : Memory) (a : Nat) (v : Byte) : Memory :=
  if v = unlisted a then m.erase a else (m.erase a).insert a v

/-- Write bytes at ascending addresses from a (20_memory.md R207, R210). -/
def Memory.writeList : Memory → Nat → List Byte → Memory
  | m, _, [] => m
  | m, a, b :: rest => Memory.writeList (m.write a b) (a + 1) rest

/-- The entries lie at rising addresses from lo, below 4096, and none is what its address reads as
unlisted. -/
def Memory.wfFrom : Nat → Memory → Bool
  | _, [] => true
  | lo, (k, b) :: rest =>
    decide (lo ≤ k) && decide (k < memSize) && decide (b ≠ unlisted k) &&
      Memory.wfFrom (k + 1) rest

/-- The canonical form of memory. -/
def Memory.wf (m : Memory) : Bool := Memory.wfFrom 0 m

/-- The smallest address at or above 4096 among the count addresses from base
(20_memory.md R203, 60_exceptions.md R705). -/
def firstOutside : Nat → Nat → Option Nat
  | _, 0 => none
  | base, count + 1 => if memSize ≤ base then some base else firstOutside (base + 1) count

/-! ## Registers, program counter, stack -/

/-- `V[x]` (00_scope.md R12). -/
def State.getV (s : State) (x : Reg) : Byte := s.v.get x.toFin

/-- `V[x] <- b` (00_scope.md R12). -/
def State.setV (s : State) (x : Reg) (b : Byte) : State := { s with v := s.v.set x.toFin b }

/-- The register numbered j, for the loops over V0 to Vx. -/
def regOf (j : Nat) : Reg := BitVec.ofNat 4 j

/-- `I <- a` (00_scope.md R12). -/
def State.setIdx (s : State) (a : Word) : State := { s with idx := a }

/-- `DT <- b` (00_scope.md R12). -/
def State.setDt (s : State) (b : Byte) : State := { s with dt := b }

/-- `ST <- b` (00_scope.md R12). -/
def State.setSt (s : State) (b : Byte) : State := { s with st := b }

/-- The call stack after a push or a pop (00_scope.md R14). -/
def State.setStack (s : State) (l : List Word) : State := { s with stack := l }

/-- `life <- l` (10_state.md R114). -/
def State.setLife (s : State) (l : Life) : State := { s with life := l }

/-- The bytes stored at base, base + 1, ... (20_memory.md R207). -/
def State.store (s : State) (base : Nat) (bytes : List Byte) : State :=
  { s with mem := s.mem.writeList base bytes }

/-- The display buffer rewritten by the draw unit, which always marks it dirty
(10_state.md R113, 46_draw.md R527). -/
def State.setFb (s : State) (fb : Framebuffer) : State := { s with fb := fb, dirty := true }

/-- VF, the flag register (10_state.md R101). -/
def regVF : Reg := 0xF#4

/-- The sequential next PC, `u16(PC + 2)` (10_state.md R106). -/
def State.seqPc (s : State) : Word := s.pc + 2#16

/-- The next PC of a taken skip, `u16(PC + 4)` (10_state.md R106). -/
def State.skipPc (s : State) : Word := s.pc + 4#16

/-- An instruction completes: `PC <- next_pc; slot <- slot + 1` (30_encoding.md R300). -/
def State.complete (s : State) (next : Word) : State := { s with pc := next, slot := s.slot + 1 }

/-- The stack is at its capacity; never so when it is unbounded (41_control.md R404). -/
def stackFull (capacity : Option Nat) (stack : List Word) : Bool :=
  match capacity with
  | none => false
  | some c => decide (c ≤ stack.length)

/-- n more free inputs have been consumed (log 1). -/
def State.consume (s : State) (n : Nat) : State := { s with drawn := s.drawn + n }

/-! ## The display buffer (10_state.md R112) -/

/-- The display row of a pixel number. -/
def pixelRow (k : Pixel) : Fin 32 := ⟨k.val / 64, by omega⟩

/-- `Fb[k]`. -/
def pixelAt (fb : Framebuffer) (k : Pixel) : Bool := (fb.get (pixelRow k)).getLsbD (k.val % 64)

/-- `Fb[k] <- not Fb[k]` (46_draw.md R520). -/
def togglePixel (fb : Framebuffer) (k : Pixel) : Framebuffer :=
  fb.set (pixelRow k) (fb.get (pixelRow k) ^^^ (1#64 <<< (k.val % 64)))

/-- Every pixel false (41_control.md R401). -/
def clearFb : Framebuffer := Vector.replicate 32 0#64

/-! ## Taking a fault (60_exceptions.md R702)

There is no handler, vector or return (R700, R711): a fault changes `life` and nothing else, and PC
still holds the faulting instruction's address.  No return from a fault exists. -/

/-- A fault is taken: `life` becomes Faulted with the diagnostic record, nothing else changes
(R702; log 8). -/
def State.raise (s : State) (f : FaultRecord) : State := { s with life := .faulted f }

/-- Check the count data addresses from base before any effect: raise `DataOutOfBounds` with the
smallest address outside, or go on (46_draw.md R521, 48_misc.md R590 to R592, D14). -/
def checkData (s : State) (i : Instr) (base count : Nat) (go : Result) : Result :=
  match firstOutside base count with
  | some a => .next (s.raise (.dataOutOfBounds s.pc (encodeWord i) a))
  | none => go

end Sys2Proof.Machine
end

