-- ==== Sys2Proof/Machine/Flags.lean ====
section
/-! DEFINITION. The values VF takes (10_state.md R101): carry, no-borrow, shifted-out bit,
collision. -/

namespace Sys2Proof.Machine

/-- A flag as the byte 1 or 0. -/
def flagByte (b : Bool) : Byte := if b then 1#8 else 0#8

/-- The carry of an addition: the exact sum exceeds 255 (44_alu.md R466). -/
def carryFlag (a b : Byte) : Byte := flagByte (decide (255 < a.toNat + b.toNat))

/-- No borrow was needed: minuend ≥ subtrahend (44_alu.md R467, R469). -/
def noBorrowFlag (minuend subtrahend : Byte) : Byte :=
  flagByte (decide (subtrahend.toNat ≤ minuend.toNat))

/-- The bit SHR shifts out, bit 0 (44_alu.md R468). -/
def shrFlag (v : Byte) : Byte := flagByte (v.getLsbD 0)

/-- The bit SHL captures: bit 0, or bit 7 under `SHL_VF_BIT = 7` (44_alu.md R470). -/
def shlFlag (bit : ShlVfBit) (v : Byte) : Byte :=
  match bit with
  | .bit0 => flagByte (v.getLsbD 0)
  | .bit7 => flagByte (v.getLsbD 7)

/-- The collision flag (46_draw.md R524): where `any` and `last` agree, their value; where they
disagree, the one the policy names, or a free one of the two when the policy is left open (log 7). -/
def collisionBit (policy : DrawVfPolicy) (any last : Bool) (drawn : Nat) : Bool :=
  if any = last then any
  else
    match policy with
    | .any => any
    | .last => last
    | .unfixed => Config.drawVf drawn

/-- How many free values `collisionBit` takes: one exactly where it is free (log 7). -/
def collisionDraws (policy : DrawVfPolicy) (any last : Bool) : Nat :=
  if any = last then 0
  else
    match policy with
    | .any => 0
    | .last => 0
    | .unfixed => 1

end Sys2Proof.Machine
end

