-- ==== Sys2Proof/Machine/Operands.lean ====
section
/-! DEFINITION. The operand forms: how an instruction's fields become values and addresses
(30_encoding.md R302). -/

namespace Sys2Proof.Machine

/-- `zext_16(NNN)` (30_encoding.md R302). -/
def zext16 (nnn : Addr) : Word := nnn.setWidth 16

/-- A byte zero-extended to 16 bits, where it is added to an address (48_misc.md R584, R501). -/
def zextByte (b : Byte) : Word := b.setWidth 16

/-- I as an exact integer: the base of the data addresses I + k (00_scope.md R13, 20_memory.md R203). -/
def State.dataBase (s : State) : Nat := s.idx.toNat

/-- The register SHR and SHL shift (44_alu.md R468, R470, D8). -/
def shiftOperand (s : State) (x y : Reg) : Byte :=
  match s.params.shiftSource with
  | .x => s.getV x
  | .y => s.getV y

/-- The key that V[x] names, when it is 0 to 15 (47_keys.md R560). -/
def keyOperand (b : Byte) : Option Key := if b.toNat ≤ 15 then some (b.setWidth 4) else none

/-- The address of the glyph of a value's low nibble, `5 * (b & 0x0F)` (48_misc.md R585). -/
def glyphAddr (b : Byte) : Word := BitVec.ofNat 16 (5 * (b &&& 0x0F#8).toNat)

/-- The hundreds digit (48_misc.md R590). -/
def bcdHundreds (b : Byte) : Byte := BitVec.ofNat 8 (b.toNat / 100)

/-- The tens digit (48_misc.md R590). -/
def bcdTens (b : Byte) : Byte := BitVec.ofNat 8 (b.toNat / 10 % 10)

/-- The ones digit (48_misc.md R590). -/
def bcdOnes (b : Byte) : Byte := BitVec.ofNat 8 (b.toNat % 10)

/-- Bit `7 - c` of a sprite byte is its column c (46_draw.md R523). -/
def spriteBit (b : Byte) (c : Nat) : Bool := b.getLsbD (7 - c)

/-- `(ox + c + 64 * (oy + r)) mod 2048` (46_draw.md R522). -/
def pixelIndex (ox oy r c : Nat) : Pixel := Fin.ofNat 2048 (ox + c + 64 * (oy + r))

end Sys2Proof.Machine
end

