-- ==== Sys2Proof/Machine/Immediate.lean ====
section
/-! DEFINITION. Load and add immediate (43_immediate.md). -/

namespace Sys2Proof.Machine

/-- An instruction whose one effect is to write V[x]. -/
def writeReg (x : Reg) (b : Byte) (s : State) : Result := .next ((s.setV x b).complete s.seqPc)

/-- 6XNN LD Vx, NN (R440). -/
def execLdImm (x : Reg) (nn : Byte) (s : State) : Result := writeReg x nn s

/-- 7XNN ADD Vx, NN (R441): wraps modulo 256, no flag. -/
def execAddImm (x : Reg) (nn : Byte) (s : State) : Result := writeReg x (s.getV x + nn) s

end Sys2Proof.Machine
end

