-- ==== Sys2Proof/Machine/Alu.lean ====
section
/-! DEFINITION. The register ALU, class 8 (44_alu.md). -/

namespace Sys2Proof.Machine

/-- Write the result to V[x] and then the flag to VF, so that VF holds the flag when x = F
(R460, R461). -/
def writeRegFlag (x : Reg) (result flag : Byte) (s : State) : Result :=
  .next (((s.setV x result).setV regVF flag).complete s.seqPc)

/-- 8XY0 LD Vx, Vy (R462). -/
def execLdReg (x y : Reg) (s : State) : Result := writeReg x (s.getV y) s

/-- 8XY1 OR Vx, Vy (R463). -/
def execOr (x y : Reg) (s : State) : Result := writeReg x (s.getV x ||| s.getV y) s

/-- 8XY2 AND Vx, Vy (R464). -/
def execAnd (x y : Reg) (s : State) : Result := writeReg x (s.getV x &&& s.getV y) s

/-- 8XY3 XOR Vx, Vy (R465). -/
def execXor (x y : Reg) (s : State) : Result := writeReg x (s.getV x ^^^ s.getV y) s

/-- 8XY4 ADD Vx, Vy (R466): VF is the carry. -/
def execAdd (x y : Reg) (s : State) : Result :=
  writeRegFlag x (s.getV x + s.getV y) (carryFlag (s.getV x) (s.getV y)) s

/-- 8XY5 SUB Vx, Vy (R467): Vx - Vy, VF is no-borrow. -/
def execSub (x y : Reg) (s : State) : Result :=
  writeRegFlag x (s.getV x - s.getV y) (noBorrowFlag (s.getV x) (s.getV y)) s

/-- 8XY6 SHR (R468): VF is bit 0 of the shifted value. -/
def execShr (x y : Reg) (s : State) : Result :=
  writeRegFlag x (shiftOperand s x y >>> 1) (shrFlag (shiftOperand s x y)) s

/-- 8XY7 SUBN Vx, Vy (R469): Vy - Vx, VF is no-borrow. -/
def execSubn (x y : Reg) (s : State) : Result :=
  writeRegFlag x (s.getV y - s.getV x) (noBorrowFlag (s.getV y) (s.getV x)) s

/-- 8XYE SHL (R470): VF is bit `SHL_VF_BIT` of the shifted value. -/
def execShl (x y : Reg) (s : State) : Result :=
  writeRegFlag x (shiftOperand s x y <<< 1) (shlFlag s.params.shlVfBit (shiftOperand s x y)) s

end Sys2Proof.Machine
end

