-- ==== Sys2Proof/Machine/Control.lean ====
section
/-! DEFINITION. The control instructions (41_control.md). -/

namespace Sys2Proof.Machine

/-- 0000 HALT (R400): `life <- Halted`, PC advances, the slot counts. -/
def execHalt (s : State) : Result := .next ((s.setLife .halted).complete s.seqPc)

/-- 00E0 CLS (R401): every pixel false, dirty set unconditionally. -/
def execCls (s : State) : Result := .next ((s.setFb clearFb).complete s.seqPc)

/-- 00EE RET (R402): pop r and continue at r + 2, or `StackUnderflow`. -/
def execRet (s : State) : Result :=
  match s.stack with
  | [] => .next (s.raise (.stackUnderflow s.pc (encodeWord .ret)))
  | r :: rest => .next ((s.setStack rest).complete (r + 2#16))

/-- 1NNN JP NNN (R403). -/
def execJp (nnn : Addr) (s : State) : Result := .next (s.complete (zext16 nnn))

/-- 2NNN CALL NNN (R404): push the CALL's own address and jump, or `StackOverflow`. -/
def execCall (nnn : Addr) (s : State) : Result :=
  if stackFull s.params.stackCapacity s.stack then
    .next (s.raise (.stackOverflow s.pc (encodeWord (.call nnn))))
  else
    .next ((s.setStack (s.pc :: s.stack)).complete (zext16 nnn))

end Sys2Proof.Machine
end

