-- ==== Sys2Proof/Machine/Draw.lean ====
section
/-! DEFINITION. DXYN and the draw unit (46_draw.md). -/

namespace Sys2Proof.Machine

/-- What the draw loop carries: the buffer, and whether any and whether the last set bit collided
(R520). -/
structure DrawAcc where
  fb : Framebuffer
  any : Bool
  last : Bool
deriving DecidableEq, Repr

/-- One sprite bit: a set bit toggles its pixel and records whether the pixel was set before
(R520, R524). -/
def drawBit (bit : Bool) (k : Pixel) (acc : DrawAcc) : DrawAcc :=
  if bit then
    { fb := togglePixel acc.fb k
      any := acc.any || pixelAt acc.fb k
      last := pixelAt acc.fb k }
  else acc

/-- The count columns from c of row r, left to right (R523). -/
def drawCols (byte : Byte) (ox oy r : Nat) : Nat → Nat → DrawAcc → DrawAcc
  | 0, _, acc => acc
  | count + 1, c, acc =>
    drawCols byte ox oy r count (c + 1) (drawBit (spriteBit byte c) (pixelIndex ox oy r c) acc)

/-- The count rows from r, top to bottom, row r read at base + r (R521). -/
def drawRows (mem : Memory) (base ox oy : Nat) : Nat → Nat → DrawAcc → DrawAcc
  | 0, _, acc => acc
  | count + 1, r, acc =>
    drawRows mem base ox oy count (r + 1) (drawCols (mem.read (base + r)) ox oy r 8 0 acc)

/-- Draw an n-row sprite at the origin (ox, oy) (R520). -/
def drawSprite (mem : Memory) (base ox oy n : Nat) (fb : Framebuffer) : DrawAcc :=
  drawRows mem base ox oy n 0 { fb := fb, any := false, last := false }

/-- The drawing of DXYN in a state: origin (V[x], V[y]), sprite at I (R520). -/
def drawResult (x y : Reg) (n : Nat) (s : State) : DrawAcc :=
  drawSprite s.mem s.dataBase (s.getV x).toNat (s.getV y).toNat n s.fb

/-- The effects of a DXYN whose addresses are all in range: the buffer, VF, dirty (R520). -/
def drawEffect (d : DrawAcc) (s : State) : State :=
  (((s.setV regVF (flagByte (collisionBit s.params.drawVfPolicy d.any d.last s.drawn))).setFb
      d.fb).consume (collisionDraws s.params.drawVfPolicy d.any d.last)).complete s.seqPc

/-- DXYN DRW Vx, Vy, N (R520): every address is checked before any effect (R521). -/
def execDrw (x y : Reg) (n : Nat) (s : State) : Result :=
  checkData s (.drw x y n) s.dataBase n (.next (drawEffect (drawResult x y n s) s))

end Sys2Proof.Machine
end

