-- ==== Sys2Proof/Machine/IndexJump.lean ====
section
/-! DEFINITION. Set index, jump with offset, random (45_index_jump_random.md). -/

namespace Sys2Proof.Machine

/-- An instruction whose one effect is to write I. -/
def writeIdx (a : Word) (s : State) : Result := .next ((s.setIdx a).complete s.seqPc)

/-- ANNN LD I, NNN (R500). -/
def execLdI (nnn : Addr) (s : State) : Result := writeIdx (zext16 nnn) s

/-- BNNN JP V0, NNN (R501): the target is not wrapped to 12 bits. -/
def execJpV0 (nnn : Addr) (s : State) : Result :=
  .next (s.complete (zext16 nnn + zextByte (s.getV 0#4)))

/-- CXNN RND Vx, NN (R502): one free byte of the random source, masked (R505; log 1). -/
def execRnd (x : Reg) (nn : Byte) (s : State) : Result :=
  writeReg x (Config.rand s.drawn &&& nn) (s.consume 1)

end Sys2Proof.Machine
end

