-- ==== Sys2Proof/Machine/Skip.lean ====
section
/-! DEFINITION. The conditional skips (42_skip.md). -/

namespace Sys2Proof.Machine

/-- Skip when the condition holds: net PC + 4, else PC + 2; nothing else changes (R420). -/
def skipIf (cond : Bool) (s : State) : Result :=
  .next (s.complete (if cond then s.skipPc else s.seqPc))

/-- 3XNN SE Vx, NN (R421). -/
def execSeImm (x : Reg) (nn : Byte) (s : State) : Result := skipIf (s.getV x == nn) s

/-- 4XNN SNE Vx, NN (R422). -/
def execSneImm (x : Reg) (nn : Byte) (s : State) : Result := skipIf (s.getV x != nn) s

/-- 5XY0 SE Vx, Vy (R423). -/
def execSeReg (x y : Reg) (s : State) : Result := skipIf (s.getV x == s.getV y) s

/-- 9XY0 SNE Vx, Vy (R424). -/
def execSneReg (x y : Reg) (s : State) : Result := skipIf (s.getV x != s.getV y) s

end Sys2Proof.Machine
end

