-- ==== Sys2Proof/Machine/Keys.lean ====
section
/-! DEFINITION. The key tests (47_keys.md). -/

namespace Sys2Proof.Machine

/-- Ask the host for the key V[x] and skip when its answer is the wanted one; V[x] > 15 raises
`KeyOutOfRange` and asks nothing (R560; log 1). -/
def keyTest (i : Instr) (x : Reg) (wanted : Bool) (s : State) : Result :=
  match keyOperand (s.getV x) with
  | none => .next (s.raise (.keyOutOfRange s.pc (encodeWord i) (s.getV x)))
  | some k => skipIf (Config.isKeyPressed s.drawn k == wanted) (s.consume 1)

/-- EX9E SKP Vx (R561). -/
def execSkp (x : Reg) (s : State) : Result := keyTest (.skp x) x true s

/-- EXA1 SKNP Vx (R562). -/
def execSknp (x : Reg) (s : State) : Result := keyTest (.sknp x) x false s

end Sys2Proof.Machine
end

