-- ==== Sys2Proof/Machine/Misc.lean ====
section
/-! DEFINITION. Class F: timers, key wait, index, BCD, bulk transfer (48_misc.md). -/

namespace Sys2Proof.Machine

/-- FX07 LD Vx, DT (R580). -/
def execLdVxDt (x : Reg) (s : State) : Result := writeReg x s.dt s

/-- FX15 LD DT, Vx (R581). -/
def execLdDtVx (x : Reg) (s : State) : Result := .next ((s.setDt (s.getV x)).complete s.seqPc)

/-- FX18 LD ST, Vx (R582). -/
def execLdStVx (x : Reg) (s : State) : Result := .next ((s.setSt (s.getV x)).complete s.seqPc)

/-- FX0A LD Vx, K (R583), the instruction's own step: `life <- WaitingKey(x)`; PC, slot and every
other field unchanged. -/
def execLdVxK (x : Reg) (s : State) : Result := .next (s.setLife (.waitingKey x))

/-- FX1E ADD I, Vx (R584): modulo 65536, no flag. -/
def execAddI (x : Reg) (s : State) : Result := writeIdx (s.idx + zextByte (s.getV x)) s

/-- FX29 LD F, Vx (R585). -/
def execLdF (x : Reg) (s : State) : Result := writeIdx (glyphAddr (s.getV x)) s

/-- The three digits FX33 writes, hundreds first (R590). -/
def bcdDigits (b : Byte) : List Byte := [bcdHundreds b, bcdTens b, bcdOnes b]

/-- The instruction stores bytes at I, I + 1, ... (20_memory.md R207). -/
def storeBytes (bytes : List Byte) (s : State) : Result :=
  .next ((s.store s.dataBase bytes).complete s.seqPc)

/-- FX33 LD B, Vx (R590). -/
def execLdB (x : Reg) (s : State) : Result :=
  checkData s (.ldB x) s.dataBase 3 (storeBytes (bcdDigits (s.getV x)) s)

/-- The values of the first count registers. -/
def firstRegs (s : State) (count : Nat) : List Byte :=
  (List.range count).map fun j => s.getV (regOf j)

/-- FX55 LD [I], Vx (R591): V0 to Vx to memory, I unchanged. -/
def execStoreRegs (x : Reg) (s : State) : Result :=
  checkData s (.storeRegs x) s.dataBase (x.toNat + 1) (storeBytes (firstRegs s (x.toNat + 1)) s)

/-- `V[j] <- MemRead(base + j, 1)` for j from 0 below count, in ascending order (R592). -/
def loadLoop (mem : Memory) (base : Nat) : Nat → State → State
  | 0, s => s
  | count + 1, s => (loadLoop mem base count s).setV (regOf count) (mem.read (base + count))

/-- FX65 LD Vx, [I] (R592): memory to V0 to Vx, I unchanged. -/
def execLoadRegs (x : Reg) (s : State) : Result :=
  checkData s (.loadRegs x) s.dataBase (x.toNat + 1)
    (.next ((loadLoop s.mem s.dataBase (x.toNat + 1) s).complete s.seqPc))

end Sys2Proof.Machine
end

