-- ==== Sys2Proof/Machine/Fetch.lean ====
section
/-! DEFINITION. Fetching an instruction (30_encoding.md R300), and placing one where the next fetch
reads it. -/

namespace Sys2Proof.Machine

/-- The last address an instruction can be fetched from (20_memory.md R203). -/
def lastFetch : Nat := 0x0FFE

/-- The two bytes at PC and PC + 1 (20_memory.md R202). -/
def fetchBytes (s : State) : List Byte :=
  [s.mem.read s.pc.toNat, s.mem.read (s.pc.toNat + 1)]

/-- Fetch and decode: `FetchOutOfBounds` first, then `IllegalInstruction` (R300, 60_exceptions.md
R706, R707, R709). -/
def fetch (s : State) : Except FaultRecord Instr :=
  if lastFetch < s.pc.toNat then .error (.fetchOutOfBounds s.pc)
  else
    match decode (fetchBytes s) with
    | .ok (i, _) => .ok i
    | .error (.illegal w) => .error (.illegalInstruction s.pc w)
    | .error .truncated => .error (.fetchOutOfBounds s.pc)

/-- PC where it can be fetched from, else the entry point. -/
def fetchablePc (pc : Word) : Word := if pc.toNat ≤ lastFetch then pc else 0x200#16

/-- The machine as a load and the scheduler bring it to the next instruction: life Ready, phase Batch,
a free slot, a PC that can be fetched from (20_memory.md R210, 30_encoding.md R300; log 10). -/
def State.atInstruction (s : State) : State :=
  { s with
    pc := fetchablePc s.pc
    life := .ready
    phase := .batch
    slot := if s.slot < batch then s.slot else 0 }

/-- The bytes of a table word placed at PC of a machine at its next instruction. -/
def placeTableWord (s : State) (nbits w : Nat) : State :=
  { s.atInstruction with
    mem := s.mem.writeList (fetchablePc s.pc).toNat (tableBytes nbits w) }

end Sys2Proof.Machine
end

