-- ==== Sys2Proof/Machine/Scheduler.lean ====
section
/-! DEFINITION. The frame scheduler, the key wait and the ends of a run (60_exceptions.md R720 to
R728, 48_misc.md R583). -/

namespace Sys2Proof.Machine

/-- The Batch phase has ended: go on to Push (R720; log 9). -/
def endBatch (s : State) : State := { s with phase := .push }

/-- Push: if dirty, send a copy of the buffer and clear the flag (R721; log 11). -/
def pushPhase (s : State) : State :=
  if s.dirty then { s with frameOut := some s.fb, dirty := false, phase := .poll }
  else { s with phase := .poll }

/-- Poll: ask the host once for a shutdown request (R722; log 1). -/
def pollPhase (s : State) : State :=
  { s.consume 1 with
    stopRequested := s.stopRequested || Config.pollShutdownRequested s.drawn
    phase := .decrement }

/-- One timer's decrement, floored at 0 (R723). -/
def decTimer (t : Byte) : Byte := if t = 0#8 then 0#8 else t - 1#8

/-- Decrement: both timers in one step (R723). -/
def decrementPhase (s : State) : State :=
  { s with dt := decTimer s.dt, st := decTimer s.st, phase := .sleep }

/-- The next frame begins: `slot <- 0; phase <- Batch` (R720). -/
def nextFrame (s : State) : State := { s with slot := 0, phase := .batch }

/-- Sleep has no effect (R724); then the run ends if HALT ran or a shutdown was seen, else the next
frame begins (R720, R725).  From Halted there is no further step (log 9). -/
def sleepPhase (s : State) : Result :=
  if s.life = .halted then .fault .halted
  else if s.stopRequested then .next (s.setLife .stopped)
  else .next (nextFrame s)

/-- The scheduler's step in each phase, where no instruction runs (R720). -/
def schedule (s : State) : Result :=
  match s.phase with
  | .batch => .next (endBatch s)
  | .push => .next (pushPhase s)
  | .poll => .next (pollPhase s)
  | .decrement => .next (decrementPhase s)
  | .sleep => sleepPhase s

/-- The host's answer k to FX0A: `V[x] <- k`, PC and slot advance, life is Ready (48_misc.md R583). -/
def keyAnswer (x : Reg) (k : Key) (s : State) : State :=
  ((s.setV x (k.setWidth 8)).setLife .ready).complete s.seqPc

/-- Waiting for a key: nothing changes until the host answers, which it may never do
(48_misc.md R583, 60_exceptions.md R727, R741; log 2). -/
def keyWait (x : Reg) (s : State) : State :=
  match Config.waitForKeyPress s.drawn with
  | none => s.consume 1
  | some k => keyAnswer x k (s.consume 1)

/-- The Batch phase has a slot left for an instruction (30_encoding.md R300). -/
def batchOpen (s : State) : Bool := decide (s.phase = .batch) && decide (s.slot < batch)

end Sys2Proof.Machine
end

