-- ==== Sys2Proof/Machine/Step.lean ====
section
/-! DEFINITION. One step of the machine (30_encoding.md R300, 60_exceptions.md R720). -/

namespace Sys2Proof.Machine

/-- Fetch, decode and execute one instruction, or take the fetch's fault (30_encoding.md R300). -/
def runInstr (s : State) : Host.Outcome State Fault Refusal :=
  match fetch s with
  | .ok i => exec i s
  | .error f => .next (s.raise f)

/-- One step, by the lifecycle state (10_state.md R114): an instruction while the batch has a slot,
else the scheduler; the host's key answer while waiting; none from Unloaded and the ends of a run. -/
def step (s : State) : Host.Outcome State Fault Refusal :=
  match s.life with
  | .unloaded => .refused .unloaded
  | .ready => if batchOpen s then runInstr s else schedule s
  | .waitingKey x => .next (keyWait x s)
  | .halted => schedule s
  | .faulted f => .fault (.faulted f)
  | .stopped => .fault .stopped

/-- `s` with an opcode-table word where the next step fetches its instruction, and life, phase, slot
and PC so that the next step runs it (log 10). -/
def State.withFetchWord (s : State) (nbits w : Nat) : State := placeTableWord s nbits w

end Sys2Proof.Machine
end

