-- ==== Sys2Proof/Machine/Boot.lean ====
section
/-! DEFINITION. Construction with launch arguments, and the loader (70_reset_and_hazards.md R800,
R801; 20_memory.md R209, R210). -/

namespace Sys2Proof.Machine

/-- The launch arguments (00_scope.md R9): `FONT`, `INIT_V`, `INIT_I`, `INIT_MEM` for 0x050 to 0xFFF,
and the parameters. -/
structure Launch where
  font : Vector Byte 80
  initV : Vector Byte 16
  initI : Word
  initMem : Vector Byte 4016
  params : Params

/-- Where `INIT_MEM` begins, the first address after the font. -/
def initMemBase : Nat := 0x050

/-- Construction of the VM with its launch arguments (10_state.md R120, 70_reset_and_hazards.md
R800). -/
def State.construct (l : Launch) : State :=
  { State.reset with
    v := l.initV
    idx := l.initI
    mem := (Memory.writeList [] 0 l.font.toList).writeList initMemBase l.initMem.toList
    params := l.params }

/-- The launch State.reset stands for: the default FONT and parameters, zeros elsewhere
(log 3, log 4, log 5). -/
def Launch.default : Launch :=
  { font := Vector.ofFn fun k => unlisted k.val
    initV := Vector.replicate 16 0#8
    initI := 0#16
    initMem := Vector.replicate 4016 0#8
    params := Params.default }

/-- What `load` answers (20_memory.md R210). -/
inductive LoadResult where
  | success
  | failure
  /-- offered in a state other than Unloaded (R210, D25) -/
  | refused
deriving DecidableEq, Repr

/-- The largest image, `MEM_SIZE - 0x200` bytes (00_scope.md R8). -/
def maxImage : Nat := memSize - loadBase

/-- `load(bytes)`: `none` is an image the host could not read (20_memory.md R210; log 10). -/
def load (image : Option (List Byte)) (s : State) : LoadResult × State :=
  if s.life = .unloaded then
    match image with
    | none => (.failure, s)
    | some bytes =>
      if maxImage < bytes.length then (.failure, s)
      else (.success, { s with mem := s.mem.writeList loadBase bytes, life := .ready })
  else (.refused, s)

end Sys2Proof.Machine
end

