-- ==== Sys2Proof/Machine/Ports.lean ====
section
/-! DEFINITION. What the host sees on the output ports, as functions of the state
(60_exceptions.md R745, R747; 10_state.md R116).  The pushFrame port is `State.frameOut`. -/

namespace Sys2Proof.Machine

/-- The tone level, `ST != 0` (R745). -/
def tone (s : State) : Bool := s.st != 0#8

/-- The edge `tone_on`: a step takes ST from 0 to nonzero (R745). -/
def toneOn (s t : State) : Bool := !tone s && tone t

/-- The edge `tone_off`: a step takes ST from nonzero to 0 (R745). -/
def toneOff (s t : State) : Bool := tone s && !tone t

/-- A fault's code (60_exceptions.md R701). -/
def FaultRecord.code : FaultRecord → Nat
  | .illegalInstruction _ _ => 1
  | .stackUnderflow _ _ => 2
  | .stackOverflow _ _ => 3
  | .fetchOutOfBounds _ => 4
  | .dataOutOfBounds _ _ _ => 5
  | .keyOutOfRange _ _ _ => 6

/-- The fault output: the diagnostic record, once a fault has been taken (60_exceptions.md R702, R747). -/
def diagnostic (s : State) : Option FaultRecord :=
  match s.life with
  | .faulted f => some f
  | .unloaded | .ready | .waitingKey _ | .halted | .stopped => none

end Sys2Proof.Machine
end

