-- ==== Sys2Proof/Safety.lean ====
section
/-! DEFINITION. The terms in which claims are stated: the invariant, the parts of the state and which
of them an instruction may change, the pixels a sprite targets, the ends of a run. -/

namespace Sys2Proof.Machine

/-! ## The invariant -/

/-- The scheduler's fields agree with the lifecycle state (60_exceptions.md R720 to R728). -/
def SchedulerOk (s : State) : Prop :=
  match s.life with
  | .unloaded => s.phase = .batch ∧ s.slot = 0 ∧ s.stopRequested = false
  | .ready =>
    s.slot ≤ batch ∧ (s.phase ≠ .batch → s.slot = batch) ∧
      (s.stopRequested = true → s.phase = .decrement ∨ s.phase = .sleep)
  | .waitingKey _ =>
    s.phase = .batch ∧ s.slot < batch ∧ s.stopRequested = false ∧ s.pc.toNat ≤ 0x0FFE
  | .halted => 0 < s.slot ∧ s.slot ≤ batch
  | .faulted _ => s.phase = .batch ∧ s.slot < batch ∧ s.stopRequested = false
  | .stopped => s.phase = .sleep ∧ s.slot = batch ∧ s.stopRequested = true

/-- The stack holds addresses of CALLs that were fetched, and no more of them than its capacity
(41_control.md R404, 10_state.md R111). -/
def StackOk (s : State) : Prop :=
  (∀ r ∈ s.stack, r.toNat ≤ 0x0FFE) ∧ ∀ c, s.params.stackCapacity = some c → s.stack.length ≤ c

/-- What every step keeps: memory in its canonical form, PC at most 0x10FE so that it never wraps
(10_state.md R107), the stack and the scheduler's fields as above. -/
structure State.Inv (s : State) : Prop where
  memory : s.mem.wf = true
  pc : s.pc.toNat ≤ 0x10FE
  stack : StackOk s
  scheduler : SchedulerOk s

/-! ## The ends of a run (70_reset_and_hazards.md R803) -/

/-- The run ended normally: Halted after its frame's Decrement, or Stopped. -/
def NormalEnd (s : State) : Prop :=
  (s.life = .halted ∧ s.phase = .sleep) ∨ s.life = .stopped

/-! ## Frames -/

/-- A part of the state: a register, a byte of memory, a pixel, or one of the other fields but PC. -/
inductive Part where
  | reg (r : Reg)
  | idx
  | dt
  | st
  | stack
  | byte (a : Nat)
  | pixel (k : Pixel)
  | dirty
  | life
  | slot
  | phase
  | stopRequested
  | params
  | drawn
  | frameOut
deriving DecidableEq, Repr

/-- A part holds the same in two states. -/
def Part.Same (s t : State) : Part → Prop
  | .reg r => t.getV r = s.getV r
  | .idx => t.idx = s.idx
  | .dt => t.dt = s.dt
  | .st => t.st = s.st
  | .stack => t.stack = s.stack
  | .byte a => t.mem.read a = s.mem.read a
  | .pixel k => pixelAt t.fb k = pixelAt s.fb k
  | .dirty => t.dirty = s.dirty
  | .life => t.life = s.life
  | .slot => t.slot = s.slot
  | .phase => t.phase = s.phase
  | .stopRequested => t.stopRequested = s.stopRequested
  | .params => t.params = s.params
  | .drawn => t.drawn = s.drawn
  | .frameOut => t.frameOut = s.frameOut

/-- The register an instruction names as its destination x is written, and VF as its side effect
(10_state.md R102). -/
def writesReg : Instr → Reg → Prop
  | .ldImm x _, r | .addImm x _, r | .rnd x _, r => r = x
  | .ldReg x _, r | .orReg x _, r | .andReg x _, r | .xorReg x _, r => r = x
  | .addReg x _, r | .subReg x _, r | .shr x _, r | .subnReg x _, r | .shl x _, r =>
    r = x ∨ r = regVF
  | .drw _ _ _, r => r = regVF
  | .ldVxDt x, r => r = x
  | .loadRegs x, r => r.toNat ≤ x.toNat
  | .halt, _ | .cls, _ | .ret, _ | .jp _, _ | .call _, _ | .seImm _ _, _ | .sneImm _ _, _
  | .seReg _ _, _ | .sneReg _ _, _ | .ldI _, _ | .jpV0 _, _ | .skp _, _ | .sknp _, _ => False
  | .ldVxK _, _ | .ldDtVx _, _ | .ldStVx _, _ | .addI _, _ | .ldF _, _ | .ldB _, _
  | .storeRegs _, _ => False

/-- The number of bytes an instruction stores from I (20_memory.md R207). -/
def storeWidth : Instr → Nat
  | .ldB _ => 3
  | .storeRegs x => x.toNat + 1
  | .halt | .cls | .ret | .jp _ | .call _ | .seImm _ _ | .sneImm _ _ | .seReg _ _ | .ldImm _ _
  | .addImm _ _ | .ldReg _ _ | .orReg _ _ | .andReg _ _ | .xorReg _ _ | .addReg _ _
  | .subReg _ _ | .shr _ _ | .subnReg _ _ | .shl _ _ | .sneReg _ _ | .ldI _ | .jpV0 _
  | .rnd _ _ | .drw _ _ _ | .skp _ | .sknp _ | .ldVxDt _ | .ldVxK _ | .ldDtVx _ | .ldStVx _
  | .addI _ | .ldF _ | .loadRegs _ => 0

/-- The pixels of a sprite's set bits in processing order: rows from the top, columns from the left
(46_draw.md R520, R522, R523). -/
def spriteTargets (mem : Memory) (base ox oy n : Nat) : List Pixel :=
  (List.range n).flatMap fun r =>
    (List.range 8).filterMap fun c =>
      if spriteBit (mem.read (base + r)) c then some (pixelIndex ox oy r c) else none

/-- The pixels DXYN targets in a state (46_draw.md R520). -/
def drawTargets (x y : Reg) (n : Nat) (s : State) : List Pixel :=
  spriteTargets s.mem s.dataBase (s.getV x).toNat (s.getV y).toNat n

/-- The pixels an instruction may change: all for CLS, the targets for DXYN (46_draw.md R527). -/
def writesPixel (i : Instr) (s : State) (k : Pixel) : Prop :=
  i = .cls ∨ ∃ x y n, i = .drw x y n ∧ k ∈ drawTargets x y n s

/-- The data addresses of an instruction from I are all below 4096, or it has none
(60_exceptions.md R705). -/
def InRange (s : State) (count : Nat) : Prop := s.dataBase + count ≤ memSize ∨ count = 0

/-- The instruction raises a fault of its own in this state (60_exceptions.md R701 codes 2, 3, 5
and 6). -/
def FaultsIn (i : Instr) (s : State) : Prop :=
  (i = .ret ∧ s.stack = []) ∨
  (∃ nnn, i = .call nnn ∧ ∃ c, s.params.stackCapacity = some c ∧ c ≤ s.stack.length) ∨
  (∃ x y n, i = .drw x y n ∧ ¬ InRange s n) ∨
  (∃ x, i = .ldB x ∧ ¬ InRange s 3) ∨
  (∃ x, (i = .storeRegs x ∨ i = .loadRegs x) ∧ ¬ InRange s (x.toNat + 1)) ∨
  (∃ x, (i = .skp x ∨ i = .sknp x) ∧ 15 < (s.getV x).toNat)

/-- The parts an instruction may change in a state, PC apart; every other part is its frame
(10_state.md R102, R103, R109, R111 to R114; 20_memory.md R207). -/
def Touches (i : Instr) (s : State) : Part → Prop
  | .reg r => writesReg i r
  | .idx => (∃ nnn, i = .ldI nnn) ∨ ∃ x, i = .addI x ∨ i = .ldF x
  | .dt => ∃ x, i = .ldDtVx x
  | .st => ∃ x, i = .ldStVx x
  | .stack => i = .ret ∨ ∃ nnn, i = .call nnn
  | .byte a => s.dataBase ≤ a ∧ a < s.dataBase + storeWidth i
  | .pixel k => writesPixel i s k
  | .dirty => i = .cls ∨ ∃ x y n, i = .drw x y n
  | .life => i = .halt ∨ (∃ x, i = .ldVxK x) ∨ FaultsIn i s
  | .slot => ∀ x, i ≠ .ldVxK x
  | .phase => False
  | .stopRequested => False
  | .params => False
  | .drawn =>
    (∃ x nn, i = .rnd x nn) ∨ (∃ x, i = .skp x ∨ i = .sknp x) ∨ ∃ x y n, i = .drw x y n
  | .frameOut => False

/-- The frame of an instruction: whenever it answers a next state, every part it does not touch is
unchanged. -/
def KeepsFrame (i : Instr) : Prop :=
  ∀ s t, exec i s = .next t → ∀ p, ¬ Touches i s p → Part.Same s t p

/-- The step from s runs the instruction i (30_encoding.md R300). -/
def Runs (s : State) (i : Instr) : Prop :=
  s.life = .ready ∧ batchOpen s = true ∧ fetch s = .ok i

/-- The host's answer k to an FX0A that waits in s has been taken in u, with everything else but the
model's count of free inputs as in s (48_misc.md R583). -/
def KeyAnswered (x : Reg) (k : Key) (s u : State) : Prop :=
  (u.getV x).toNat = k.toNat ∧ (∀ r, r ≠ x → u.getV r = s.getV r) ∧
    u = { s with
      v := u.v, pc := s.pc + 2#16, slot := s.slot + 1, life := .ready, drawn := u.drawn }

/-- An instruction completed: PC is the next PC, the slot counts, the machine goes on as it was
(30_encoding.md R300). -/
def Completed (s t : State) (next : Word) : Prop :=
  t.pc = next ∧ t.slot = s.slot + 1 ∧ t.life = s.life

end Sys2Proof.Machine
end

