-- ==== Sys2Proof/Certificates/Slice0/Obligations.lean ====
section
/-! DEFINITION. The statements for the provers, each from a numbered rule of the spec.  "log n" is
notes/assumptions/n.md.  Where a clause rests on a decision the spec marks as its own (D<n> of
92_eei_decisions.md), the docstring says so. -/

open Sys2Proof Sys2Proof.Machine

/-! ## Encoding and decoding -/

/-- R301, R302, R314: decoding an encoded well-formed instruction gives it back, as a word and as
the first two of any bytes.  The bit patterns are those of D1. -/
def Obligations.DecodeOfEncode : Prop :=
  ∀ i : Instr, i.WellFormed →
    decodeWord (encodeWord i) = some i ∧
      ∀ rest, decode (encode i ++ rest) = .ok (i, rest)

/-- R311: a decoded word is the encoding of the instruction it gives, so no bit of it is dropped. -/
def Obligations.EncodeOfDecode : Prop :=
  ∀ w i, decodeWord w = some i → i.WellFormed ∧ encodeWord i = w

/-- R310: the decoder gives a word the instruction of the row it selects, and none exactly when it
selects no row (patterns: D1). -/
def Obligations.DecoderFollowsOpcodeMap : Prop :=
  ∀ w,
    (∀ i, decodeWord w = some i → i.row ∈ opcodeRows ∧ i.row.selects w = true) ∧
      (decodeWord w = none ↔ ∀ r ∈ opcodeRows, r.selects w = false)

/-- R311, "No word matches two rows", which the spec derives from R310. -/
def Obligations.NoWordMatchesTwoRows : Prop :=
  ∀ w, ∀ r ∈ opcodeRows, ∀ r' ∈ opcodeRows,
    r.selects w = true → r'.selects w = true → r = r'

/-- R312: the illegal words, class by class (decisions D2 and D3 of the spec). -/
def Obligations.IllegalWordsByClass : Prop :=
  ∀ w, decodeWord w = none ↔
    (fieldC w = 0x0#4 ∧ w ≠ 0x0000#16 ∧ w ≠ 0x00E0#16 ∧ w ≠ 0x00EE#16) ∨
    (fieldC w = 0x5#4 ∧ fieldN w ≠ 0#4) ∨
    (fieldC w = 0x8#4 ∧ fieldN w ∈ [0x8#4, 0x9#4, 0xA#4, 0xB#4, 0xC#4, 0xD#4, 0xF#4]) ∨
    (fieldC w = 0x9#4 ∧ fieldN w ≠ 0#4) ∨
    (fieldC w = 0xE#4 ∧ fieldNN w ∉ [0x9E#8, 0xA1#8]) ∨
    (fieldC w = 0xF#4 ∧
      fieldNN w ∉ [0x07#8, 0x0A#8, 0x15#8, 0x18#8, 0x1E#8, 0x29#8, 0x33#8, 0x55#8, 0x65#8])

/-- R304: the words the source itself gives: 0000, 00E0, 00EE, and its worked examples `6005`, `6103`
and `8014`. -/
def Obligations.SourceWordsDecode : Prop :=
  decode [0x00#8, 0x00#8] = .ok (.halt, []) ∧ decode [0x00#8, 0xE0#8] = .ok (.cls, []) ∧
  decode [0x00#8, 0xEE#8] = .ok (.ret, []) ∧
  decode [0x60#8, 0x05#8] = .ok (.ldImm 0x0#4 0x05#8, []) ∧
  decode [0x61#8, 0x03#8] = .ok (.ldImm 0x1#4 0x03#8, []) ∧
  decode [0x80#8, 0x14#8] = .ok (.addReg 0x0#4 0x1#4, [])

/-- R314: every instruction is exactly two bytes, and nothing but PC and the two bytes there decides
what a fetch gives: no prefix, no mode. -/
def Obligations.InstructionsAreTwoBytes : Prop :=
  (∀ bytes i rest, decode bytes = .ok (i, rest) →
    bytes.length = rest.length + 2 ∧ rest = bytes.drop 2) ∧
  ∀ s t : State, s.pc = t.pc → s.mem.read s.pc.toNat = t.mem.read t.pc.toNat →
    s.mem.read (s.pc.toNat + 1) = t.mem.read (t.pc.toNat + 1) → fetch s = fetch t

/-! ## The step -/

/-- R300: while life is Ready, the phase Batch and a slot free, the bytes at PC and PC + 1 that
decode to an instruction run it; the step adds nothing around exec. -/
def Obligations.StepRunsDecodedInstruction : Prop :=
  ∀ (s : State) (i : Instr) (rest : List Byte),
    s.life = .ready → s.phase = .batch → s.slot < 10 → s.pc.toNat ≤ 0x0FFE →
      decode [s.mem.read s.pc.toNat, s.mem.read (s.pc.toNat + 1)] = .ok (i, rest) →
        step s = exec i s

/-- R706, R707, R709 (decisions D2, D3, D6, D30 and D37 of the spec; that the fault is a next state is
log 8): a fetch past 0x0FFE faults whatever the bytes, an illegal word in range faults, nothing but
life changes. -/
def Obligations.FetchFaults : Prop :=
  ∀ s : State, s.life = .ready → s.phase = .batch → s.slot < 10 →
    (0x0FFE < s.pc.toNat →
      step s = .next { s with life := .faulted (.fetchOutOfBounds s.pc) }) ∧
    ∀ w, s.pc.toNat ≤ 0x0FFE →
      w = (s.mem.read s.pc.toNat ++ s.mem.read (s.pc.toNat + 1) : BitVec 16) →
      decodeWord w = none →
        step s = .next { s with life := .faulted (.illegalInstruction s.pc w) }

/-- R728, R801: no step from Unloaded; one load after construction leaves life Unloaded or makes it
Ready; the first step after a success fetches an instruction, at 0x200, in slot 0 of a Batch. -/
def Obligations.NoStepBeforeLoad : Prop :=
  (∀ s : State, s.life = .unloaded → step s = .refused .unloaded) ∧
  ∀ l image r t, (State.construct l).life = .unloaded ∧
    (load image (State.construct l) = (r, t) →
      (r = .failure ∨ r = .success) ∧ (r = .failure → t.life = .unloaded) ∧
      (r = .success →
        t.life = .ready ∧ t.phase = .batch ∧ t.slot = 0 ∧ t.pc = 0x200#16 ∧ step t = runInstr t))

/-- R714: only the host's key answer leaves WaitingKey and everything else survives it; only an FX0A
enters it; no step leaves Halted, and none is made from Faulted and Stopped; Sleep changes nothing
but what ends or begins a frame (R720, R725).  The polled answer is log 2. -/
def Obligations.WaitAndStopStates : Prop :=
  (∀ (s : State) x, s.life = .waitingKey x →
    (Config.waitForKeyPress s.drawn = none ∧
      step s = .next { s with drawn := s.drawn + 1 }) ∨
    ∃ k, Config.waitForKeyPress s.drawn = some k ∧
      step s = .next { s with
        v := s.v.set x.toFin (k.setWidth 8), pc := s.pc + 2#16, slot := s.slot + 1, life := .ready
        drawn := s.drawn + 1 }) ∧
  (∀ (s t : State) x, step s = .next t → t.life = .waitingKey x →
    s.life = .waitingKey x ∨ fetch s = .ok (.ldVxK x)) ∧
  (∀ s t : State, s.life = .halted → step s = .next t → t.life = .halted) ∧
  (∀ (s : State) f, s.life = .faulted f → step s = .fault (.faulted f)) ∧
  (∀ s : State, s.life = .stopped → step s = .fault .stopped) ∧
  ∀ s t : State, s.life = .ready ∨ s.life = .halted → s.phase = .sleep → step s = .next t →
    t = { s with life := t.life, slot := t.slot, phase := t.phase }

/-! ## Control -/

/-- R400: HALT sets life to Halted; that PC advances is decision D23 of the spec. -/
def Obligations.HaltEffect : Prop :=
  ∀ s, exec .halt s = .next { s with life := .halted, pc := s.pc + 2#16, slot := s.slot + 1 }

/-- R401: CLS clears every pixel and marks the display dirty, in every case (decision D39 of the
spec); VF and every other field are unchanged but for PC and slot. -/
def Obligations.ClearDisplayEffect : Prop :=
  ∀ s, ∃ g, (∀ k, pixelAt g k = false) ∧
    exec .cls s =
      .next { s with fb := g, dirty := true, pc := s.pc + 2#16, slot := s.slot + 1 }

/-- R402: RET pops r and continues at r + 2; from an empty stack it raises StackUnderflow
(decision D4 of the spec). -/
def Obligations.ReturnEffect : Prop :=
  (∀ s r rest, s.stack = r :: rest →
    exec .ret s = .next { s with stack := rest, pc := r + 2#16, slot := s.slot + 1 }) ∧
  ∀ s, s.stack = [] →
    exec .ret s = .next { s with life := .faulted (.stackUnderflow s.pc 0x00EE#16) }

/-- R403: the jump goes to the 12-bit address, odd or even. -/
def Obligations.JumpEffect : Prop :=
  ∀ nnn s, ∃ t, exec (.jp nnn) s = .next t ∧ t.pc.toNat = nnn.toNat ∧
    t = { s with pc := t.pc, slot := s.slot + 1 }

/-- R404: CALL pushes its own address and jumps; it raises StackOverflow exactly when the capacity
is finite and reached. -/
def Obligations.CallEffect : Prop :=
  ∀ nnn s,
    ((∀ c, s.params.stackCapacity = some c → s.stack.length < c) →
      ∃ t, exec (.call nnn) s = .next t ∧ t.pc.toNat = nnn.toNat ∧
        t = { s with stack := s.pc :: s.stack, pc := t.pc, slot := s.slot + 1 }) ∧
    ∀ c, s.params.stackCapacity = some c → c ≤ s.stack.length →
      exec (.call nnn) s =
        .next { s with life := .faulted (.stackOverflow s.pc (encodeWord (.call nnn))) }

/-- R405, which the spec derives from R402 and R404: a RET in any state with the stack the CALL left
returns to the instruction after the CALL and restores the stack. -/
def Obligations.CallThenReturn : Prop :=
  ∀ nnn (s t u : State),
    (∀ c, s.params.stackCapacity = some c → s.stack.length < c) →
      exec (.call nnn) s = .next t → u.stack = t.stack →
        ∃ w, exec .ret u = .next w ∧ w.pc = s.pc + 2#16 ∧ w.stack = s.stack

/-! ## Skips -/

/-- R421 to R424: a skip compares and sets PC to PC + 4 or PC + 2; nothing else changes but the
slot. -/
def Obligations.SkipEffect : Prop :=
  (∀ x nn s, exec (.seImm x nn) s = .next { s with
    pc := if s.getV x = nn then s.pc + 4#16 else s.pc + 2#16, slot := s.slot + 1 }) ∧
  (∀ x nn s, exec (.sneImm x nn) s = .next { s with
    pc := if s.getV x ≠ nn then s.pc + 4#16 else s.pc + 2#16, slot := s.slot + 1 }) ∧
  (∀ x y s, exec (.seReg x y) s = .next { s with
    pc := if s.getV x = s.getV y then s.pc + 4#16 else s.pc + 2#16, slot := s.slot + 1 }) ∧
  ∀ x y s, exec (.sneReg x y) s = .next { s with
    pc := if s.getV x ≠ s.getV y then s.pc + 4#16 else s.pc + 2#16, slot := s.slot + 1 }

/-! ## Immediate and ALU -/

/-- R440: the word 6XNN is LD Vx, NN; V[x] becomes NN and no other register changes. -/
def Obligations.LoadImmediateEffect : Prop :=
  ∀ x nn, decodeWord ((0x6#4 ++ x : BitVec 8) ++ nn) = some (.ldImm x nn) ∧
    ∀ s, ∃ t, exec (.ldImm x nn) s = .next t ∧ Completed s t (s.pc + 2#16) ∧
      t.getV x = nn ∧ ∀ r, r ≠ x → t.getV r = s.getV r

/-- R441: V[x] becomes the sum modulo 256; that VF is not written unless x = F is decision D11 of
the spec. -/
def Obligations.AddImmediateEffect : Prop :=
  ∀ x nn s, ∃ t, exec (.addImm x nn) s = .next t ∧ Completed s t (s.pc + 2#16) ∧
    (t.getV x).toNat = ((s.getV x).toNat + nn.toNat) % 256 ∧ ∀ r, r ≠ x → t.getV r = s.getV r

/-- R462: V[x] becomes V[y] and no other register changes. -/
def Obligations.MoveEffect : Prop :=
  ∀ x y s, ∃ t, exec (.ldReg x y) s = .next t ∧ Completed s t (s.pc + 2#16) ∧
    t.getV x = s.getV y ∧ ∀ r, r ≠ x → t.getV r = s.getV r

/-- R463, R464, R465, bit by bit; that VF is not written unless x = F is decision D11 of the spec. -/
def Obligations.LogicEffect : Prop :=
  (∀ x y s, ∃ t, exec (.orReg x y) s = .next t ∧ Completed s t (s.pc + 2#16) ∧
    (∀ b, (t.getV x).getLsbD b = ((s.getV x).getLsbD b || (s.getV y).getLsbD b)) ∧
    ∀ r, r ≠ x → t.getV r = s.getV r) ∧
  (∀ x y s, ∃ t, exec (.andReg x y) s = .next t ∧ Completed s t (s.pc + 2#16) ∧
    (∀ b, (t.getV x).getLsbD b = ((s.getV x).getLsbD b && (s.getV y).getLsbD b)) ∧
    ∀ r, r ≠ x → t.getV r = s.getV r) ∧
  ∀ x y s, ∃ t, exec (.xorReg x y) s = .next t ∧ Completed s t (s.pc + 2#16) ∧
    (∀ b, (t.getV x).getLsbD b = ((s.getV x).getLsbD b ^^ (s.getV y).getLsbD b)) ∧
    ∀ r, r ≠ x → t.getV r = s.getV r

/-- R466: the sum modulo 256 in V[x], the carry in VF; when x = F the carry, which the rule's
pseudocode writes last. -/
def Obligations.AddEffect : Prop :=
  ∀ x y s, ∃ t, exec (.addReg x y) s = .next t ∧ Completed s t (s.pc + 2#16) ∧
    t.getV regVF = (if (s.getV x).toNat + (s.getV y).toNat > 255 then 1#8 else 0#8) ∧
    (x ≠ regVF → (t.getV x).toNat = ((s.getV x).toNat + (s.getV y).toNat) % 256) ∧
    ∀ r, r ≠ x → r ≠ regVF → t.getV r = s.getV r

/-- R467, R469: Vx - Vy and Vy - Vx modulo 256 in V[x], no-borrow in VF, written last when x = F
(D10).  Which word takes which direction is the conventional encoding (D1). -/
def Obligations.SubtractEffect : Prop :=
  (∀ x y s, ∃ t, exec (.subReg x y) s = .next t ∧ Completed s t (s.pc + 2#16) ∧
    t.getV regVF = (if (s.getV x).toNat ≥ (s.getV y).toNat then 1#8 else 0#8) ∧
    (x ≠ regVF → ((t.getV x).toNat : Int) = (((s.getV x).toNat : Int) - (s.getV y).toNat) % 256) ∧
    ∀ r, r ≠ x → r ≠ regVF → t.getV r = s.getV r) ∧
  ∀ x y s, ∃ t, exec (.subnReg x y) s = .next t ∧ Completed s t (s.pc + 2#16) ∧
    t.getV regVF = (if (s.getV y).toNat ≥ (s.getV x).toNat then 1#8 else 0#8) ∧
    (x ≠ regVF → ((t.getV x).toNat : Int) = (((s.getV y).toNat : Int) - (s.getV x).toNat) % 256) ∧
    ∀ r, r ≠ x → r ≠ regVF → t.getV r = s.getV r

/-- R468: for either SHIFT_SOURCE, v / 2 in V[x] and v mod 2 in VF, where v is V[x] or V[y]. -/
def Obligations.ShiftRightEffect : Prop :=
  ∀ x y s v, (s.params.shiftSource = .x → v = s.getV x) →
    (s.params.shiftSource = .y → v = s.getV y) →
    ∃ t, exec (.shr x y) s = .next t ∧ Completed s t (s.pc + 2#16) ∧
      (t.getV regVF).toNat = v.toNat % 2 ∧ (x ≠ regVF → (t.getV x).toNat = v.toNat / 2) ∧
      ∀ r, r ≠ x → r ≠ regVF → t.getV r = s.getV r

/-- R470: for either SHIFT_SOURCE, (v * 2) mod 256 in V[x]; in VF bit 0 of v, or bit 7 of v under
SHL_VF_BIT = 7. -/
def Obligations.ShiftLeftEffect : Prop :=
  ∀ x y s v, (s.params.shiftSource = .x → v = s.getV x) →
    (s.params.shiftSource = .y → v = s.getV y) →
    ∃ t, exec (.shl x y) s = .next t ∧ Completed s t (s.pc + 2#16) ∧
      (s.params.shlVfBit = .bit0 → (t.getV regVF).toNat = v.toNat % 2) ∧
      (s.params.shlVfBit = .bit7 → (t.getV regVF).toNat = v.toNat / 128) ∧
      (x ≠ regVF → (t.getV x).toNat = v.toNat * 2 % 256) ∧
      ∀ r, r ≠ x → r ≠ regVF → t.getV r = s.getV r

/-! ## Index, jump with offset, random -/

/-- R500, R585, R584: I becomes NNN, or 5 times the low nibble of V[x], or I + V[x] modulo 65536;
no register changes, VF included, which for FX1E is decision D16 of the spec. -/
def Obligations.IndexEffect : Prop :=
  (∀ nnn s, ∃ t, exec (.ldI nnn) s = .next t ∧ Completed s t (s.pc + 2#16) ∧
    t.idx.toNat = nnn.toNat ∧ ∀ r, t.getV r = s.getV r) ∧
  (∀ x s, ∃ t, exec (.ldF x) s = .next t ∧ Completed s t (s.pc + 2#16) ∧
    t.idx.toNat = 5 * ((s.getV x).toNat % 16) ∧ ∀ r, t.getV r = s.getV r) ∧
  ∀ x s, ∃ t, exec (.addI x) s = .next t ∧ Completed s t (s.pc + 2#16) ∧
    t.idx.toNat = (s.idx.toNat + (s.getV x).toNat) % 65536 ∧ ∀ r, t.getV r = s.getV r

/-- R501: the target is NNN + V0, not wrapped to 12 bits. -/
def Obligations.JumpOffsetEffect : Prop :=
  ∀ nnn s, ∃ t, exec (.jpV0 nnn) s = .next t ∧
    t.pc.toNat = nnn.toNat + (s.getV 0x0#4).toNat ∧
    t = { s with pc := t.pc, slot := s.slot + 1 }

/-- R502, R505: V[x] becomes a free byte masked by NN; the free byte is the model's Config.rand
(log 1), of which nothing is known. -/
def Obligations.RandomEffect : Prop :=
  ∀ x nn s, ∃ t, exec (.rnd x nn) s = .next t ∧ Completed s t (s.pc + 2#16) ∧
    (∀ b, (t.getV x).getLsbD b = ((Config.rand s.drawn).getLsbD b && nn.getLsbD b)) ∧
    (∀ r, r ≠ x → t.getV r = s.getV r) ∧ s.drawn < t.drawn

/-! ## Draw -/

/-- R520, R522: a DXYN whose addresses are in range toggles exactly the pixels of its set bits,
for every row count, 0 included, and marks the display dirty; bit order, n = 0 and the unconditional
dirty are decisions D13 and D39 of the spec. -/
def Obligations.DrawPixels : Prop :=
  ∀ x y n s, n ≤ 15 → s.idx.toNat + n ≤ 4096 ∨ n = 0 →
    ∃ t, exec (.drw x y n) s = .next t ∧ Completed s t (s.pc + 2#16) ∧ t.dirty = true ∧
      ∀ k hit, (hit ↔ ∃ r < n, ∃ c < 8,
          (s.mem.read (s.idx.toNat + r)).getLsbD (7 - c) = true ∧
          k.val = ((s.getV x).toNat + c + 64 * ((s.getV y).toNat + r)) % 2048) →
        (hit → pixelAt t.fb k = !pixelAt s.fb k) ∧ (¬ hit → pixelAt t.fb k = pixelAt s.fb k)

/-- R524: VF under each policy; with the policy left open (decision D12 of the spec, log 7) it is
the common value where ANY and LAST agree, and 0 or 1. -/
def Obligations.DrawCollisionFlag : Prop :=
  ∀ x y n s, n ≤ 15 → s.idx.toNat + n ≤ 4096 ∨ n = 0 →
    ∃ t, exec (.drw x y n) s = .next t ∧
      (∀ any last : Bool,
        any = (drawTargets x y n s).any (pixelAt s.fb) →
        last = ((drawTargets x y n s).getLast?.map (pixelAt s.fb)).getD false →
          (s.params.drawVfPolicy = .any → t.getV regVF = if any then 1#8 else 0#8) ∧
          (s.params.drawVfPolicy = .last → t.getV regVF = if last then 1#8 else 0#8) ∧
          (any = last → t.getV regVF = if any then 1#8 else 0#8)) ∧
      (t.getV regVF = 0#8 ∨ t.getV regVF = 1#8) ∧ ∀ r, r ≠ regVF → t.getV r = s.getV r

/-- R525, which the spec derives from R522: the pixels of the at most 15 rows of 8 columns of one
sprite are pairwise distinct. -/
def Obligations.SpritePixelsDistinct : Prop :=
  ∀ ox oy r c r' c', r < 15 → r' < 15 → c < 8 → c' < 8 →
    pixelIndex ox oy r c = pixelIndex ox oy r' c' → r = r' ∧ c = c'

/-- R526, which the spec derives from R520, R524 and R525: drawing the same sprite twice restores
every pixel; if the sprite has a set bit and its pixels were dark before the first draw, VF is 1 under
every policy.  R526 does not write the condition on the pixels, and without it R520 contradicts its
VF clause: a pixel that was lit before is cleared first and set again without a collision (log 20). -/
def Obligations.DrawTwiceRestores : Prop :=
  ∀ x y n (s t u : State), 1 ≤ n → n ≤ 15 → s.idx.toNat + n ≤ 4096 →
    exec (.drw x y n) s = .next t → t.getV x = s.getV x → t.getV y = s.getV y →
      exec (.drw x y n) t = .next u →
        (∀ k, pixelAt u.fb k = pixelAt s.fb k) ∧
          (drawTargets x y n s ≠ [] → (∀ k ∈ drawTargets x y n s, pixelAt s.fb k = false) →
            u.getV regVF = 1#8)

/-! ## Keys -/

/-- R561, R562: the skip follows the host's answer for the key V[x], a free value (log 1); V[x] > 15
raises KeyOutOfRange and asks nothing (decision D17 of the spec). -/
def Obligations.KeyTestEffect : Prop :=
  (∀ x s, (s.getV x).toNat ≤ 15 →
    (∃ p, p = Config.isKeyPressed s.drawn ((s.getV x).setWidth 4) ∧
      exec (.skp x) s = .next { s with
        pc := if p then s.pc + 4#16 else s.pc + 2#16, slot := s.slot + 1, drawn := s.drawn + 1 } ∧
      exec (.sknp x) s = .next { s with
        pc := if p then s.pc + 2#16 else s.pc + 4#16, slot := s.slot + 1, drawn := s.drawn + 1 })) ∧
  ∀ x s, 15 < (s.getV x).toNat →
    exec (.skp x) s = .next { s with
      life := .faulted (.keyOutOfRange s.pc (encodeWord (.skp x)) (s.getV x)) } ∧
    exec (.sknp x) s = .next { s with
      life := .faulted (.keyOutOfRange s.pc (encodeWord (.sknp x)) (s.getV x)) }

/-! ## Class F -/

/-- R580, R581, R582: FX07 reads DT, FX15 writes DT, FX18 writes ST. -/
def Obligations.TimerTransferEffect : Prop :=
  (∀ x s, ∃ t, exec (.ldVxDt x) s = .next t ∧ Completed s t (s.pc + 2#16) ∧
    t.getV x = s.dt ∧ (∀ r, r ≠ x → t.getV r = s.getV r) ∧ t.dt = s.dt ∧ t.st = s.st) ∧
  (∀ x s, exec (.ldDtVx x) s =
    .next { s with dt := s.getV x, pc := s.pc + 2#16, slot := s.slot + 1 }) ∧
  ∀ x s, exec (.ldStVx x) s =
    .next { s with st := s.getV x, pc := s.pc + 2#16, slot := s.slot + 1 }

/-- R583, R727.  In every state FX0A answers a next state: its own effect is that life becomes
WaitingKey(x), with everything else unchanged, PC and slot included.  Each later step without an answer
changes nothing but the model's count of free inputs (log 1, log 2); the step with the answer k puts k
in V[x], advances PC and slot, makes life Ready, and changes nothing else but that count.  So within
any number of steps after it the instruction has come to its end, or the host has not answered yet. -/
def Obligations.KeyWaitEffect : Prop :=
  (∀ x s, ∃ t, exec (.ldVxK x) s = .next t ∧ t = { s with life := .waitingKey x } ∧
    ∀ n,
      ((∀ m < n, Config.waitForKeyPress (s.drawn + m) = none) ∧
        Sys2Proof.core.run n t = .next { t with drawn := s.drawn + n }) ∨
      ∃ m < n, ∃ k u, (∀ j < m, Config.waitForKeyPress (s.drawn + j) = none) ∧
        Config.waitForKeyPress (s.drawn + m) = some k ∧
        Sys2Proof.core.run (m + 1) t = .next u ∧ KeyAnswered x k s u ∧
        u.drawn = s.drawn + (m + 1)) ∧
  ∀ x s, s.life = .waitingKey x →
    (Config.waitForKeyPress s.drawn = none ∧ step s = .next { s with drawn := s.drawn + 1 }) ∨
    ∃ k u, Config.waitForKeyPress s.drawn = some k ∧
      step s = .next u ∧ KeyAnswered x k s u ∧ u.drawn = s.drawn + 1

/-- R590, in range: the three bytes at I hold the decimal digits of V[x], hundreds first; every
other byte, I and the registers are unchanged. -/
def Obligations.BcdEffect : Prop :=
  ∀ x s, s.idx.toNat + 3 ≤ 4096 →
    ∃ t, exec (.ldB x) s = .next t ∧ Completed s t (s.pc + 2#16) ∧
      (t.mem.read s.idx.toNat).toNat = (s.getV x).toNat / 100 ∧
      (t.mem.read (s.idx.toNat + 1)).toNat = (s.getV x).toNat / 10 % 10 ∧
      (t.mem.read (s.idx.toNat + 2)).toNat = (s.getV x).toNat % 10 ∧
      (∀ a, (a < s.idx.toNat ∨ s.idx.toNat + 3 ≤ a) → t.mem.read a = s.mem.read a) ∧
      t.idx = s.idx ∧ ∀ r, t.getV r = s.getV r

/-- R591, in range: V0 to Vx in ascending bytes from I, every other byte unchanged; that I is
unchanged is decision D15 of the spec. -/
def Obligations.StoreRegistersEffect : Prop :=
  ∀ x s, s.idx.toNat + x.toNat + 1 ≤ 4096 →
    ∃ t, exec (.storeRegs x) s = .next t ∧ Completed s t (s.pc + 2#16) ∧
      (∀ r, r.toNat ≤ x.toNat → t.mem.read (s.idx.toNat + r.toNat) = s.getV r) ∧
      (∀ a, (a < s.idx.toNat ∨ s.idx.toNat + x.toNat < a) → t.mem.read a = s.mem.read a) ∧
      t.idx = s.idx ∧ ∀ r, t.getV r = s.getV r

/-- R592, in range: V0 to Vx from ascending bytes at I, the other registers and memory unchanged;
that I is unchanged is decision D15 of the spec. -/
def Obligations.LoadRegistersEffect : Prop :=
  ∀ x s, s.idx.toNat + x.toNat + 1 ≤ 4096 →
    ∃ t, exec (.loadRegs x) s = .next t ∧ Completed s t (s.pc + 2#16) ∧
      (∀ r, r.toNat ≤ x.toNat → t.getV r = s.mem.read (s.idx.toNat + r.toNat)) ∧
      (∀ r, x.toNat < r.toNat → t.getV r = s.getV r) ∧ t.idx = s.idx ∧ t.mem = s.mem

/-- R592's corner case: an FX65 in any state that holds the memory an FX55 left and the same I
restores V0 to Vx. -/
def Obligations.StoreThenLoadRestores : Prop :=
  ∀ x (s t u : State), s.idx.toNat + x.toNat + 1 ≤ 4096 →
    exec (.storeRegs x) s = .next t → u.mem = t.mem → u.idx = s.idx →
      ∃ w, exec (.loadRegs x) u = .next w ∧ ∀ r, r.toNat ≤ x.toNat → w.getV r = s.getV r

/-- R520, R590, R591, R592, R705 out of range (decisions D6 and D14 of the spec; that the fault is a
next state is log 8): DataOutOfBounds with the smallest address at or above 4096, and nothing but
life changes. -/
def Obligations.DataOutOfBoundsFaults : Prop :=
  ∀ (i : Instr) (n : Nat) (s : State),
    (∃ x y, i = .drw x y n) ∨ (∃ x, i = .ldB x ∧ n = 3) ∨
      (∃ x, (i = .storeRegs x ∨ i = .loadRegs x) ∧ n = x.toNat + 1) →
    n ≠ 0 → 4096 < s.idx.toNat + n →
      ∃ a, 4096 ≤ a ∧ s.idx.toNat ≤ a ∧ a < s.idx.toNat + n ∧
        (∀ b, 4096 ≤ b → s.idx.toNat ≤ b → a ≤ b) ∧
        exec i s = .next { s with life := .faulted (.dataOutOfBounds s.pc (encodeWord i) a) }

/-! ## Scheduler -/

/-- R723: both timers are decremented in one step and floored at 0; nothing else changes but the
phase. -/
def Obligations.DecrementEffect : Prop :=
  ∀ s : State, s.life = .ready ∨ s.life = .halted → s.phase = .decrement →
    ∃ t, step s = .next t ∧ t.dt.toNat = s.dt.toNat - 1 ∧ t.st.toNat = s.st.toNat - 1 ∧
      t = { s with dt := t.dt, st := t.st, phase := .sleep }

/-- R720 to R725: after the tenth instruction, five steps push the buffer if dirty, poll, decrement,
and begin the next frame, or stop if the host asked for it (decision D24 of the spec); that the
phases are steps of their own is log 9, the port field is log 11. -/
def Obligations.FrameEnd : Prop :=
  ∀ s : State, s.life = .ready → s.phase = .batch → s.slot = 10 → s.stopRequested = false →
    ∃ t, Sys2Proof.core.run 5 s = .next t ∧ t.dirty = false ∧
      t.frameOut = (if s.dirty then some s.fb else s.frameOut) ∧
      t.dt.toNat = s.dt.toNat - 1 ∧ t.st.toNat = s.st.toNat - 1 ∧
      (Config.pollShutdownRequested s.drawn = false →
        t.life = .ready ∧ t.phase = .batch ∧ t.slot = 0 ∧ t.stopRequested = false) ∧
      (Config.pollShutdownRequested s.drawn = true →
        t.life = .stopped ∧ step t = .fault .stopped) ∧
      t = { s with
        dirty := t.dirty, frameOut := t.frameOut, dt := t.dt, st := t.st, life := t.life
        phase := t.phase, slot := t.slot, stopRequested := t.stopRequested
        drawn := t.drawn }

/-- R725 and R803 (decision D23 of the spec): after HALT the frame's Push, Poll and Decrement run and
then the run is over, whatever the host answers; life stays Halted. -/
def Obligations.HaltedFrameEnd : Prop :=
  ∀ s : State, s.life = .halted → s.phase = .batch →
    ∃ t, Sys2Proof.core.run 4 s = .next t ∧ NormalEnd t ∧ t.life = .halted ∧
      t.dirty = false ∧ t.frameOut = (if s.dirty then some s.fb else s.frameOut) ∧
      t.dt.toNat = s.dt.toNat - 1 ∧ t.st.toNat = s.st.toNat - 1 ∧ t.pc = s.pc ∧ t.v = s.v ∧
      t.mem = s.mem ∧ t.fb = s.fb ∧ step t = .fault .halted

/-! ## Whole-machine rules -/

/-- R702 (decisions D14 and D37 of the spec; that the fault is a next state is log 8): a step that
takes a fault changes life and nothing else, and nothing runs after it. -/
def Obligations.FaultsArePrecise : Prop :=
  ∀ (s t : State) f, step s = .next t → t.life = .faulted f →
    t = { s with life := .faulted f } ∧ step t = .fault (.faulted f)

/-- R109: DT and ST start at 0; FX15 writes DT, FX18 writes ST, FX07 reads DT; over every step only
these writes and the Decrement phase change them; Decrement saturates at 0 and leaves its phase, so
it comes once a frame. -/
def Obligations.TimersChangeOnlyBy : Prop :=
  (∀ l, (State.construct l).dt = 0#8 ∧ (State.construct l).st = 0#8) ∧
  (∀ x s, (∃ t, exec (.ldDtVx x) s = .next t ∧ t.dt = s.getV x) ∧
    (∃ t, exec (.ldStVx x) s = .next t ∧ t.st = s.getV x) ∧
    ∃ t, exec (.ldVxDt x) s = .next t ∧ t.getV x = s.dt) ∧
  (∀ s t : State, step s = .next t → s.phase = .decrement → s.life = .ready ∨ s.life = .halted →
    t.dt.toNat = s.dt.toNat - 1 ∧ t.st.toNat = s.st.toNat - 1 ∧ t.phase = .sleep) ∧
  ∀ s t : State, step s = .next t →
    (t.dt = s.dt ∨ (∃ x, fetch s = .ok (.ldDtVx x) ∧ t.dt = s.getV x) ∨
      (s.phase = .decrement ∧ t.dt.toNat = s.dt.toNat - 1)) ∧
    (t.st = s.st ∨ (∃ x, fetch s = .ok (.ldStVx x) ∧ t.st = s.getV x) ∨
      (s.phase = .decrement ∧ t.st.toNat = s.st.toNat - 1))

/-- R527 with R112, R113, R721: only CLS and DXYN change the buffer and only they set dirty, each of
them whether or not a pixel changes (D39); only the Push phase clears dirty and sends a frame, the
whole buffer as it stands, and only when dirty.  The port field is log 11. -/
def Obligations.DisplayChangesOnlyBy : Prop :=
  ∀ s t : State, step s = .next t →
    (t.fb = s.fb ∨ Runs s .cls ∨ ∃ x y n, Runs s (.drw x y n)) ∧
    (s.dirty = false → t.dirty = true → Runs s .cls ∨ ∃ x y n, Runs s (.drw x y n)) ∧
    (Runs s .cls → t.dirty = true) ∧
    (∀ x y n, Runs s (.drw x y n) → InRange s n → t.dirty = true) ∧
    (t.fb ≠ s.fb → t.dirty = true) ∧
    (t.frameOut = s.frameOut ∨
      (s.phase = .push ∧ s.dirty = true ∧ t.frameOut = some s.fb ∧ t.fb = s.fb)) ∧
    (s.dirty = true → t.dirty = false → s.phase = .push ∧ t.frameOut = some s.fb)

/-- R103, R111, R206 with R207: over every step, only ANNN, FX1E and FX29 change I, only CALL and RET the stack
(by one entry), and only FX33 and FX55 a byte of memory, at its data addresses. -/
def Obligations.StateChangesOnlyBy : Prop :=
  ∀ s t : State, step s = .next t →
    (t.idx = s.idx ∨ (∃ nnn, fetch s = .ok (.ldI nnn)) ∨
      ∃ x, fetch s = .ok (.addI x) ∨ fetch s = .ok (.ldF x)) ∧
    (t.stack = s.stack ∨ ((∃ nnn, fetch s = .ok (.call nnn)) ∧ t.stack = s.pc :: s.stack) ∨
      (fetch s = .ok .ret ∧ ∃ r, s.stack = r :: t.stack)) ∧
    ∀ a, t.mem.read a = s.mem.read a ∨
      ∃ i, fetch s = .ok i ∧ s.dataBase ≤ a ∧ a < s.dataBase + storeWidth i ∧ a < 4096

/-- R745 (decision D26 of the spec): `tone_on` only by FX18 with a nonzero V[x], `tone_off` only by
FX18 with V[x] = 0 or by Decrement from 1. -/
def Obligations.ToneEdges : Prop :=
  ∀ s t : State, step s = .next t →
    (toneOn s t = true → ∃ x, fetch s = .ok (.ldStVx x) ∧ s.st = 0#8 ∧ s.getV x ≠ 0#8) ∧
    (toneOff s t = true →
      (∃ x, fetch s = .ok (.ldStVx x) ∧ s.getV x = 0#8) ∨ (s.phase = .decrement ∧ s.st = 1#8))

/-! ## Frames -/

/-- The frame of the control instructions and the skips (R102, R400 to R404, R420): no register,
timer, I or byte of memory changes; only CLS changes pixels, only RET and CALL the stack. -/
def Obligations.FrameControlAndSkips : Prop :=
  KeepsFrame .halt ∧ KeepsFrame .cls ∧ KeepsFrame .ret ∧ (∀ nnn, KeepsFrame (.jp nnn)) ∧
  (∀ nnn, KeepsFrame (.call nnn)) ∧ (∀ x nn, KeepsFrame (.seImm x nn)) ∧
  (∀ x nn, KeepsFrame (.sneImm x nn)) ∧ (∀ x y, KeepsFrame (.seReg x y)) ∧
  ∀ x y, KeepsFrame (.sneReg x y)

/-- The frame of the immediate instructions and the register ALU (R102, R440, R441, R460): only V[x]
changes, and VF for the five that write a flag. -/
def Obligations.FrameArithmetic : Prop :=
  (∀ x nn, KeepsFrame (.ldImm x nn)) ∧ (∀ x nn, KeepsFrame (.addImm x nn)) ∧
  (∀ x y, KeepsFrame (.ldReg x y)) ∧ (∀ x y, KeepsFrame (.orReg x y)) ∧
  (∀ x y, KeepsFrame (.andReg x y)) ∧ (∀ x y, KeepsFrame (.xorReg x y)) ∧
  (∀ x y, KeepsFrame (.addReg x y)) ∧ (∀ x y, KeepsFrame (.subReg x y)) ∧
  (∀ x y, KeepsFrame (.shr x y)) ∧ (∀ x y, KeepsFrame (.subnReg x y)) ∧
  ∀ x y, KeepsFrame (.shl x y)

/-- The frame of the index, random, draw and key instructions (R102, R103, R527, R560): DXYN changes
VF, dirty and its target pixels; no byte of memory changes. -/
def Obligations.FrameIndexDrawKeys : Prop :=
  (∀ nnn, KeepsFrame (.ldI nnn)) ∧ (∀ nnn, KeepsFrame (.jpV0 nnn)) ∧
  (∀ x nn, KeepsFrame (.rnd x nn)) ∧ (∀ x y n, KeepsFrame (.drw x y n)) ∧
  (∀ x, KeepsFrame (.skp x)) ∧ ∀ x, KeepsFrame (.sknp x)

/-- The frame of class F (R102, R109, R207): FX33 and FX55 change only the bytes from I, FX65 only
V0 to Vx, the timers only by their writes. -/
def Obligations.FrameMisc : Prop :=
  (∀ x, KeepsFrame (.ldVxDt x)) ∧ (∀ x, KeepsFrame (.ldVxK x)) ∧ (∀ x, KeepsFrame (.ldDtVx x)) ∧
  (∀ x, KeepsFrame (.ldStVx x)) ∧ (∀ x, KeepsFrame (.addI x)) ∧ (∀ x, KeepsFrame (.ldF x)) ∧
  (∀ x, KeepsFrame (.ldB x)) ∧ (∀ x, KeepsFrame (.storeRegs x)) ∧ ∀ x, KeepsFrame (.loadRegs x)

/-! ## Reset, load and the invariant -/

/-- R120, R205 (decision D21 of the spec for the display, dirty and the stack): what construction
leaves, for every launch; V, I and the rest of memory are the launch arguments. -/
def Obligations.ConstructionValues : Prop :=
  ∀ l, (State.construct l).pc = 0x200#16 ∧ (State.construct l).dt = 0#8 ∧ (State.construct l).st = 0#8 ∧
    (State.construct l).stack = [] ∧ (∀ k, pixelAt (State.construct l).fb k = false) ∧
    (State.construct l).dirty = false ∧ (State.construct l).life = .unloaded ∧
    (State.construct l).slot = 0 ∧ (State.construct l).phase = .batch ∧
    (State.construct l).stopRequested = false ∧ (∀ r, (State.construct l).getV r = l.initV.get r.toFin) ∧
    (State.construct l).idx = l.initI ∧
    (∀ k : Fin 80, (State.construct l).mem.read k.val = l.font.get k) ∧
    ∀ k : Fin 4016, (State.construct l).mem.read (0x050 + k.val) = l.initMem.get k

/-- State.reset is the construction whose launch arguments are the model's choices (log 3 to
log 7): the default font and parameters, DRAW_VF_POLICY left open, and zeros. -/
def Obligations.ResetIsDefaultConstruction : Prop :=
  State.construct Launch.default = State.reset

/-- R210 (decision D25 of the spec for the oversized image and the second load): a readable image of
at most 3584 bytes is copied to 0x200 and life is Ready; everything else leaves the state unchanged. -/
def Obligations.LoadEffect : Prop :=
  (∀ (s : State) bytes, s.life = .unloaded → bytes.length ≤ 3584 →
    ∃ t, load (some bytes) s = (.success, t) ∧ t.life = .ready ∧
      (∀ k, (h : k < bytes.length) → t.mem.read (0x200 + k) = bytes[k]) ∧
      (∀ a, (a < 0x200 ∨ 0x200 + bytes.length ≤ a) → t.mem.read a = s.mem.read a) ∧
      t = { s with mem := t.mem, life := .ready }) ∧
  (∀ (s : State) bytes, s.life = .unloaded → 3584 < bytes.length →
    load (some bytes) s = (.failure, s)) ∧
  (∀ s : State, s.life = .unloaded → load none s = (.failure, s)) ∧
  ∀ (s : State) image, s.life ≠ .unloaded → load image s = (.refused, s)

/-- The model's invariant holds at reset: memory canonical, PC small, the stack empty, the scheduler
at the start of a batch (R120). -/
def Obligations.ResetMeetsInvariant : Prop := State.reset.Inv

/-- The invariant holds of every construction and is kept by every load (R120, R210). -/
def Obligations.LaunchMeetsInvariant : Prop :=
  (∀ l, (State.construct l).Inv) ∧ ∀ image (s : State), s.Inv → (load image s).2.Inv

/-- R107, R111, R115, R720: every step from any state that meets the invariant gives a state that
meets it. -/
def Obligations.StepKeepsInvariant : Prop :=
  ∀ s t : State, s.Inv → step s = .next t → t.Inv

/-- R107 and R801: every state that a loaded image reaches, on any launch and for any host answers,
meets the invariant; so PC never passes 0x10FE and memory stays canonical. -/
def Obligations.LoadedRunsMeetInvariant : Prop :=
  ∀ l image (s t : State) n, load image (State.construct l) = (.success, s) →
    Sys2Proof.core.run n s = .next t → t.Inv
end

