-- ==== Sys2Proof/Laws/State.lean ====
section
/-! SUPPORT. What each update of State leaves in each field, by definition, so that no proof unfolds a
record update; and reading a register after writing one. -/

namespace Sys2Proof.Machine

/-! ## `V[x] <- b` (00_scope.md R12) -/

@[simp] theorem State.setV_v (s : State) (x : Reg) (b : Byte) :
    (s.setV x b).v =
      s.v.set x.toFin b := rfl
@[simp] theorem State.setV_idx (s : State) (x : Reg) (b : Byte) : (s.setV x b).idx = s.idx := rfl
@[simp] theorem State.setV_pc (s : State) (x : Reg) (b : Byte) : (s.setV x b).pc = s.pc := rfl
@[simp] theorem State.setV_dt (s : State) (x : Reg) (b : Byte) : (s.setV x b).dt = s.dt := rfl
@[simp] theorem State.setV_st (s : State) (x : Reg) (b : Byte) : (s.setV x b).st = s.st := rfl
@[simp] theorem State.setV_stack (s : State) (x : Reg) (b : Byte) :
    (s.setV x b).stack =
      s.stack := rfl
@[simp] theorem State.setV_mem (s : State) (x : Reg) (b : Byte) : (s.setV x b).mem = s.mem := rfl
@[simp] theorem State.setV_fb (s : State) (x : Reg) (b : Byte) : (s.setV x b).fb = s.fb := rfl
@[simp] theorem State.setV_dirty (s : State) (x : Reg) (b : Byte) :
    (s.setV x b).dirty =
      s.dirty := rfl
@[simp] theorem State.setV_life (s : State) (x : Reg) (b : Byte) : (s.setV x b).life = s.life := rfl
@[simp] theorem State.setV_slot (s : State) (x : Reg) (b : Byte) : (s.setV x b).slot = s.slot := rfl
@[simp] theorem State.setV_phase (s : State) (x : Reg) (b : Byte) :
    (s.setV x b).phase =
      s.phase := rfl
@[simp] theorem State.setV_stopRequested (s : State) (x : Reg) (b : Byte) :
    (s.setV x b).stopRequested =
      s.stopRequested := rfl
@[simp] theorem State.setV_params (s : State) (x : Reg) (b : Byte) :
    (s.setV x b).params =
      s.params := rfl
@[simp] theorem State.setV_drawn (s : State) (x : Reg) (b : Byte) :
    (s.setV x b).drawn =
      s.drawn := rfl
@[simp] theorem State.setV_frameOut (s : State) (x : Reg) (b : Byte) :
    (s.setV x b).frameOut =
      s.frameOut := rfl

/-! ## `I <- a` (00_scope.md R12) -/

@[simp] theorem State.setIdx_v (s : State) (a : Word) : (s.setIdx a).v = s.v := rfl
@[simp] theorem State.setIdx_idx (s : State) (a : Word) : (s.setIdx a).idx = a := rfl
@[simp] theorem State.setIdx_pc (s : State) (a : Word) : (s.setIdx a).pc = s.pc := rfl
@[simp] theorem State.setIdx_dt (s : State) (a : Word) : (s.setIdx a).dt = s.dt := rfl
@[simp] theorem State.setIdx_st (s : State) (a : Word) : (s.setIdx a).st = s.st := rfl
@[simp] theorem State.setIdx_stack (s : State) (a : Word) : (s.setIdx a).stack = s.stack := rfl
@[simp] theorem State.setIdx_mem (s : State) (a : Word) : (s.setIdx a).mem = s.mem := rfl
@[simp] theorem State.setIdx_fb (s : State) (a : Word) : (s.setIdx a).fb = s.fb := rfl
@[simp] theorem State.setIdx_dirty (s : State) (a : Word) : (s.setIdx a).dirty = s.dirty := rfl
@[simp] theorem State.setIdx_life (s : State) (a : Word) : (s.setIdx a).life = s.life := rfl
@[simp] theorem State.setIdx_slot (s : State) (a : Word) : (s.setIdx a).slot = s.slot := rfl
@[simp] theorem State.setIdx_phase (s : State) (a : Word) : (s.setIdx a).phase = s.phase := rfl
@[simp] theorem State.setIdx_stopRequested (s : State) (a : Word) :
    (s.setIdx a).stopRequested =
      s.stopRequested := rfl
@[simp] theorem State.setIdx_params (s : State) (a : Word) : (s.setIdx a).params = s.params := rfl
@[simp] theorem State.setIdx_drawn (s : State) (a : Word) : (s.setIdx a).drawn = s.drawn := rfl
@[simp] theorem State.setIdx_frameOut (s : State) (a : Word) :
    (s.setIdx a).frameOut =
      s.frameOut := rfl

/-! ## `DT <- b` (00_scope.md R12) -/

@[simp] theorem State.setDt_v (s : State) (b : Byte) : (s.setDt b).v = s.v := rfl
@[simp] theorem State.setDt_idx (s : State) (b : Byte) : (s.setDt b).idx = s.idx := rfl
@[simp] theorem State.setDt_pc (s : State) (b : Byte) : (s.setDt b).pc = s.pc := rfl
@[simp] theorem State.setDt_dt (s : State) (b : Byte) : (s.setDt b).dt = b := rfl
@[simp] theorem State.setDt_st (s : State) (b : Byte) : (s.setDt b).st = s.st := rfl
@[simp] theorem State.setDt_stack (s : State) (b : Byte) : (s.setDt b).stack = s.stack := rfl
@[simp] theorem State.setDt_mem (s : State) (b : Byte) : (s.setDt b).mem = s.mem := rfl
@[simp] theorem State.setDt_fb (s : State) (b : Byte) : (s.setDt b).fb = s.fb := rfl
@[simp] theorem State.setDt_dirty (s : State) (b : Byte) : (s.setDt b).dirty = s.dirty := rfl
@[simp] theorem State.setDt_life (s : State) (b : Byte) : (s.setDt b).life = s.life := rfl
@[simp] theorem State.setDt_slot (s : State) (b : Byte) : (s.setDt b).slot = s.slot := rfl
@[simp] theorem State.setDt_phase (s : State) (b : Byte) : (s.setDt b).phase = s.phase := rfl
@[simp] theorem State.setDt_stopRequested (s : State) (b : Byte) :
    (s.setDt b).stopRequested =
      s.stopRequested := rfl
@[simp] theorem State.setDt_params (s : State) (b : Byte) : (s.setDt b).params = s.params := rfl
@[simp] theorem State.setDt_drawn (s : State) (b : Byte) : (s.setDt b).drawn = s.drawn := rfl
@[simp] theorem State.setDt_frameOut (s : State) (b : Byte) :
    (s.setDt b).frameOut =
      s.frameOut := rfl

/-! ## `ST <- b` (00_scope.md R12) -/

@[simp] theorem State.setSt_v (s : State) (b : Byte) : (s.setSt b).v = s.v := rfl
@[simp] theorem State.setSt_idx (s : State) (b : Byte) : (s.setSt b).idx = s.idx := rfl
@[simp] theorem State.setSt_pc (s : State) (b : Byte) : (s.setSt b).pc = s.pc := rfl
@[simp] theorem State.setSt_dt (s : State) (b : Byte) : (s.setSt b).dt = s.dt := rfl
@[simp] theorem State.setSt_st (s : State) (b : Byte) : (s.setSt b).st = b := rfl
@[simp] theorem State.setSt_stack (s : State) (b : Byte) : (s.setSt b).stack = s.stack := rfl
@[simp] theorem State.setSt_mem (s : State) (b : Byte) : (s.setSt b).mem = s.mem := rfl
@[simp] theorem State.setSt_fb (s : State) (b : Byte) : (s.setSt b).fb = s.fb := rfl
@[simp] theorem State.setSt_dirty (s : State) (b : Byte) : (s.setSt b).dirty = s.dirty := rfl
@[simp] theorem State.setSt_life (s : State) (b : Byte) : (s.setSt b).life = s.life := rfl
@[simp] theorem State.setSt_slot (s : State) (b : Byte) : (s.setSt b).slot = s.slot := rfl
@[simp] theorem State.setSt_phase (s : State) (b : Byte) : (s.setSt b).phase = s.phase := rfl
@[simp] theorem State.setSt_stopRequested (s : State) (b : Byte) :
    (s.setSt b).stopRequested =
      s.stopRequested := rfl
@[simp] theorem State.setSt_params (s : State) (b : Byte) : (s.setSt b).params = s.params := rfl
@[simp] theorem State.setSt_drawn (s : State) (b : Byte) : (s.setSt b).drawn = s.drawn := rfl
@[simp] theorem State.setSt_frameOut (s : State) (b : Byte) :
    (s.setSt b).frameOut =
      s.frameOut := rfl

/-! ## the call stack (00_scope.md R14) -/

@[simp] theorem State.setStack_v (s : State) (l : List Word) : (s.setStack l).v = s.v := rfl
@[simp] theorem State.setStack_idx (s : State) (l : List Word) : (s.setStack l).idx = s.idx := rfl
@[simp] theorem State.setStack_pc (s : State) (l : List Word) : (s.setStack l).pc = s.pc := rfl
@[simp] theorem State.setStack_dt (s : State) (l : List Word) : (s.setStack l).dt = s.dt := rfl
@[simp] theorem State.setStack_st (s : State) (l : List Word) : (s.setStack l).st = s.st := rfl
@[simp] theorem State.setStack_stack (s : State) (l : List Word) : (s.setStack l).stack = l := rfl
@[simp] theorem State.setStack_mem (s : State) (l : List Word) : (s.setStack l).mem = s.mem := rfl
@[simp] theorem State.setStack_fb (s : State) (l : List Word) : (s.setStack l).fb = s.fb := rfl
@[simp] theorem State.setStack_dirty (s : State) (l : List Word) :
    (s.setStack l).dirty =
      s.dirty := rfl
@[simp] theorem State.setStack_life (s : State) (l : List Word) :
    (s.setStack l).life =
      s.life := rfl
@[simp] theorem State.setStack_slot (s : State) (l : List Word) :
    (s.setStack l).slot =
      s.slot := rfl
@[simp] theorem State.setStack_phase (s : State) (l : List Word) :
    (s.setStack l).phase =
      s.phase := rfl
@[simp] theorem State.setStack_stopRequested (s : State) (l : List Word) :
    (s.setStack l).stopRequested =
      s.stopRequested := rfl
@[simp] theorem State.setStack_params (s : State) (l : List Word) :
    (s.setStack l).params =
      s.params := rfl
@[simp] theorem State.setStack_drawn (s : State) (l : List Word) :
    (s.setStack l).drawn =
      s.drawn := rfl
@[simp] theorem State.setStack_frameOut (s : State) (l : List Word) :
    (s.setStack l).frameOut =
      s.frameOut := rfl

/-! ## the lifecycle state (10_state.md R114) -/

@[simp] theorem State.setLife_v (s : State) (l : Life) : (s.setLife l).v = s.v := rfl
@[simp] theorem State.setLife_idx (s : State) (l : Life) : (s.setLife l).idx = s.idx := rfl
@[simp] theorem State.setLife_pc (s : State) (l : Life) : (s.setLife l).pc = s.pc := rfl
@[simp] theorem State.setLife_dt (s : State) (l : Life) : (s.setLife l).dt = s.dt := rfl
@[simp] theorem State.setLife_st (s : State) (l : Life) : (s.setLife l).st = s.st := rfl
@[simp] theorem State.setLife_stack (s : State) (l : Life) : (s.setLife l).stack = s.stack := rfl
@[simp] theorem State.setLife_mem (s : State) (l : Life) : (s.setLife l).mem = s.mem := rfl
@[simp] theorem State.setLife_fb (s : State) (l : Life) : (s.setLife l).fb = s.fb := rfl
@[simp] theorem State.setLife_dirty (s : State) (l : Life) : (s.setLife l).dirty = s.dirty := rfl
@[simp] theorem State.setLife_life (s : State) (l : Life) : (s.setLife l).life = l := rfl
@[simp] theorem State.setLife_slot (s : State) (l : Life) : (s.setLife l).slot = s.slot := rfl
@[simp] theorem State.setLife_phase (s : State) (l : Life) : (s.setLife l).phase = s.phase := rfl
@[simp] theorem State.setLife_stopRequested (s : State) (l : Life) :
    (s.setLife l).stopRequested =
      s.stopRequested := rfl
@[simp] theorem State.setLife_params (s : State) (l : Life) : (s.setLife l).params = s.params := rfl
@[simp] theorem State.setLife_drawn (s : State) (l : Life) : (s.setLife l).drawn = s.drawn := rfl
@[simp] theorem State.setLife_frameOut (s : State) (l : Life) :
    (s.setLife l).frameOut =
      s.frameOut := rfl

/-! ## storing bytes (20_memory.md R207) -/

@[simp] theorem State.store_v (s : State) (a : Nat) (l : List Byte) : (s.store a l).v = s.v := rfl
@[simp] theorem State.store_idx (s : State) (a : Nat) (l : List Byte) :
    (s.store a l).idx =
      s.idx := rfl
@[simp] theorem State.store_pc (s : State) (a : Nat) (l : List Byte) :
    (s.store a l).pc =
      s.pc := rfl
@[simp] theorem State.store_dt (s : State) (a : Nat) (l : List Byte) :
    (s.store a l).dt =
      s.dt := rfl
@[simp] theorem State.store_st (s : State) (a : Nat) (l : List Byte) :
    (s.store a l).st =
      s.st := rfl
@[simp] theorem State.store_stack (s : State) (a : Nat) (l : List Byte) :
    (s.store a l).stack =
      s.stack := rfl
@[simp] theorem State.store_mem (s : State) (a : Nat) (l : List Byte) :
    (s.store a l).mem =
      s.mem.writeList a l := rfl
@[simp] theorem State.store_fb (s : State) (a : Nat) (l : List Byte) :
    (s.store a l).fb =
      s.fb := rfl
@[simp] theorem State.store_dirty (s : State) (a : Nat) (l : List Byte) :
    (s.store a l).dirty =
      s.dirty := rfl
@[simp] theorem State.store_life (s : State) (a : Nat) (l : List Byte) :
    (s.store a l).life =
      s.life := rfl
@[simp] theorem State.store_slot (s : State) (a : Nat) (l : List Byte) :
    (s.store a l).slot =
      s.slot := rfl
@[simp] theorem State.store_phase (s : State) (a : Nat) (l : List Byte) :
    (s.store a l).phase =
      s.phase := rfl
@[simp] theorem State.store_stopRequested (s : State) (a : Nat) (l : List Byte) :
    (s.store a l).stopRequested =
      s.stopRequested := rfl
@[simp] theorem State.store_params (s : State) (a : Nat) (l : List Byte) :
    (s.store a l).params =
      s.params := rfl
@[simp] theorem State.store_drawn (s : State) (a : Nat) (l : List Byte) :
    (s.store a l).drawn =
      s.drawn := rfl
@[simp] theorem State.store_frameOut (s : State) (a : Nat) (l : List Byte) :
    (s.store a l).frameOut =
      s.frameOut := rfl

/-! ## the display buffer (10_state.md R113) -/

@[simp] theorem State.setFb_v (s : State) (g : Framebuffer) : (s.setFb g).v = s.v := rfl
@[simp] theorem State.setFb_idx (s : State) (g : Framebuffer) : (s.setFb g).idx = s.idx := rfl
@[simp] theorem State.setFb_pc (s : State) (g : Framebuffer) : (s.setFb g).pc = s.pc := rfl
@[simp] theorem State.setFb_dt (s : State) (g : Framebuffer) : (s.setFb g).dt = s.dt := rfl
@[simp] theorem State.setFb_st (s : State) (g : Framebuffer) : (s.setFb g).st = s.st := rfl
@[simp] theorem State.setFb_stack (s : State) (g : Framebuffer) : (s.setFb g).stack = s.stack := rfl
@[simp] theorem State.setFb_mem (s : State) (g : Framebuffer) : (s.setFb g).mem = s.mem := rfl
@[simp] theorem State.setFb_fb (s : State) (g : Framebuffer) : (s.setFb g).fb = g := rfl
@[simp] theorem State.setFb_dirty (s : State) (g : Framebuffer) : (s.setFb g).dirty = true := rfl
@[simp] theorem State.setFb_life (s : State) (g : Framebuffer) : (s.setFb g).life = s.life := rfl
@[simp] theorem State.setFb_slot (s : State) (g : Framebuffer) : (s.setFb g).slot = s.slot := rfl
@[simp] theorem State.setFb_phase (s : State) (g : Framebuffer) : (s.setFb g).phase = s.phase := rfl
@[simp] theorem State.setFb_stopRequested (s : State) (g : Framebuffer) :
    (s.setFb g).stopRequested =
      s.stopRequested := rfl
@[simp] theorem State.setFb_params (s : State) (g : Framebuffer) :
    (s.setFb g).params =
      s.params := rfl
@[simp] theorem State.setFb_drawn (s : State) (g : Framebuffer) : (s.setFb g).drawn = s.drawn := rfl
@[simp] theorem State.setFb_frameOut (s : State) (g : Framebuffer) :
    (s.setFb g).frameOut =
      s.frameOut := rfl

/-! ## an instruction completes (30_encoding.md R300) -/

@[simp] theorem State.complete_v (s : State) (a : Word) : (s.complete a).v = s.v := rfl
@[simp] theorem State.complete_idx (s : State) (a : Word) : (s.complete a).idx = s.idx := rfl
@[simp] theorem State.complete_pc (s : State) (a : Word) : (s.complete a).pc = a := rfl
@[simp] theorem State.complete_dt (s : State) (a : Word) : (s.complete a).dt = s.dt := rfl
@[simp] theorem State.complete_st (s : State) (a : Word) : (s.complete a).st = s.st := rfl
@[simp] theorem State.complete_stack (s : State) (a : Word) : (s.complete a).stack = s.stack := rfl
@[simp] theorem State.complete_mem (s : State) (a : Word) : (s.complete a).mem = s.mem := rfl
@[simp] theorem State.complete_fb (s : State) (a : Word) : (s.complete a).fb = s.fb := rfl
@[simp] theorem State.complete_dirty (s : State) (a : Word) : (s.complete a).dirty = s.dirty := rfl
@[simp] theorem State.complete_life (s : State) (a : Word) : (s.complete a).life = s.life := rfl
@[simp] theorem State.complete_slot (s : State) (a : Word) : (s.complete a).slot = s.slot + 1 := rfl
@[simp] theorem State.complete_phase (s : State) (a : Word) : (s.complete a).phase = s.phase := rfl
@[simp] theorem State.complete_stopRequested (s : State) (a : Word) :
    (s.complete a).stopRequested =
      s.stopRequested := rfl
@[simp] theorem State.complete_params (s : State) (a : Word) :
    (s.complete a).params =
      s.params := rfl
@[simp] theorem State.complete_drawn (s : State) (a : Word) : (s.complete a).drawn = s.drawn := rfl
@[simp] theorem State.complete_frameOut (s : State) (a : Word) :
    (s.complete a).frameOut =
      s.frameOut := rfl

/-! ## a fault is taken (60_exceptions.md R702) -/

@[simp] theorem State.raise_v (s : State) (f : FaultRecord) : (s.raise f).v = s.v := rfl
@[simp] theorem State.raise_idx (s : State) (f : FaultRecord) : (s.raise f).idx = s.idx := rfl
@[simp] theorem State.raise_pc (s : State) (f : FaultRecord) : (s.raise f).pc = s.pc := rfl
@[simp] theorem State.raise_dt (s : State) (f : FaultRecord) : (s.raise f).dt = s.dt := rfl
@[simp] theorem State.raise_st (s : State) (f : FaultRecord) : (s.raise f).st = s.st := rfl
@[simp] theorem State.raise_stack (s : State) (f : FaultRecord) : (s.raise f).stack = s.stack := rfl
@[simp] theorem State.raise_mem (s : State) (f : FaultRecord) : (s.raise f).mem = s.mem := rfl
@[simp] theorem State.raise_fb (s : State) (f : FaultRecord) : (s.raise f).fb = s.fb := rfl
@[simp] theorem State.raise_dirty (s : State) (f : FaultRecord) : (s.raise f).dirty = s.dirty := rfl
@[simp] theorem State.raise_life (s : State) (f : FaultRecord) :
    (s.raise f).life =
      .faulted f := rfl
@[simp] theorem State.raise_slot (s : State) (f : FaultRecord) : (s.raise f).slot = s.slot := rfl
@[simp] theorem State.raise_phase (s : State) (f : FaultRecord) : (s.raise f).phase = s.phase := rfl
@[simp] theorem State.raise_stopRequested (s : State) (f : FaultRecord) :
    (s.raise f).stopRequested =
      s.stopRequested := rfl
@[simp] theorem State.raise_params (s : State) (f : FaultRecord) :
    (s.raise f).params =
      s.params := rfl
@[simp] theorem State.raise_drawn (s : State) (f : FaultRecord) : (s.raise f).drawn = s.drawn := rfl
@[simp] theorem State.raise_frameOut (s : State) (f : FaultRecord) :
    (s.raise f).frameOut =
      s.frameOut := rfl

/-! ## free inputs are consumed (log 1) -/

@[simp] theorem State.consume_v (s : State) (n : Nat) : (s.consume n).v = s.v := rfl
@[simp] theorem State.consume_idx (s : State) (n : Nat) : (s.consume n).idx = s.idx := rfl
@[simp] theorem State.consume_pc (s : State) (n : Nat) : (s.consume n).pc = s.pc := rfl
@[simp] theorem State.consume_dt (s : State) (n : Nat) : (s.consume n).dt = s.dt := rfl
@[simp] theorem State.consume_st (s : State) (n : Nat) : (s.consume n).st = s.st := rfl
@[simp] theorem State.consume_stack (s : State) (n : Nat) : (s.consume n).stack = s.stack := rfl
@[simp] theorem State.consume_mem (s : State) (n : Nat) : (s.consume n).mem = s.mem := rfl
@[simp] theorem State.consume_fb (s : State) (n : Nat) : (s.consume n).fb = s.fb := rfl
@[simp] theorem State.consume_dirty (s : State) (n : Nat) : (s.consume n).dirty = s.dirty := rfl
@[simp] theorem State.consume_life (s : State) (n : Nat) : (s.consume n).life = s.life := rfl
@[simp] theorem State.consume_slot (s : State) (n : Nat) : (s.consume n).slot = s.slot := rfl
@[simp] theorem State.consume_phase (s : State) (n : Nat) : (s.consume n).phase = s.phase := rfl
@[simp] theorem State.consume_stopRequested (s : State) (n : Nat) :
    (s.consume n).stopRequested =
      s.stopRequested := rfl
@[simp] theorem State.consume_params (s : State) (n : Nat) : (s.consume n).params = s.params := rfl
@[simp] theorem State.consume_drawn (s : State) (n : Nat) : (s.consume n).drawn = s.drawn + n := rfl
@[simp] theorem State.consume_frameOut (s : State) (n : Nat) :
    (s.consume n).frameOut =
      s.frameOut := rfl

/-! ## the Batch phase ends (60_exceptions.md R720) -/

@[simp] theorem endBatch_v (s : State) : (endBatch s).v = s.v := rfl
@[simp] theorem endBatch_idx (s : State) : (endBatch s).idx = s.idx := rfl
@[simp] theorem endBatch_pc (s : State) : (endBatch s).pc = s.pc := rfl
@[simp] theorem endBatch_dt (s : State) : (endBatch s).dt = s.dt := rfl
@[simp] theorem endBatch_st (s : State) : (endBatch s).st = s.st := rfl
@[simp] theorem endBatch_stack (s : State) : (endBatch s).stack = s.stack := rfl
@[simp] theorem endBatch_mem (s : State) : (endBatch s).mem = s.mem := rfl
@[simp] theorem endBatch_fb (s : State) : (endBatch s).fb = s.fb := rfl
@[simp] theorem endBatch_dirty (s : State) : (endBatch s).dirty = s.dirty := rfl
@[simp] theorem endBatch_life (s : State) : (endBatch s).life = s.life := rfl
@[simp] theorem endBatch_slot (s : State) : (endBatch s).slot = s.slot := rfl
@[simp] theorem endBatch_phase (s : State) : (endBatch s).phase = .push := rfl
@[simp] theorem endBatch_stopRequested (s : State) :
    (endBatch s).stopRequested =
      s.stopRequested := rfl
@[simp] theorem endBatch_params (s : State) : (endBatch s).params = s.params := rfl
@[simp] theorem endBatch_drawn (s : State) : (endBatch s).drawn = s.drawn := rfl
@[simp] theorem endBatch_frameOut (s : State) : (endBatch s).frameOut = s.frameOut := rfl

/-! ## Poll (60_exceptions.md R722) -/

@[simp] theorem pollPhase_v (s : State) : (pollPhase s).v = s.v := rfl
@[simp] theorem pollPhase_idx (s : State) : (pollPhase s).idx = s.idx := rfl
@[simp] theorem pollPhase_pc (s : State) : (pollPhase s).pc = s.pc := rfl
@[simp] theorem pollPhase_dt (s : State) : (pollPhase s).dt = s.dt := rfl
@[simp] theorem pollPhase_st (s : State) : (pollPhase s).st = s.st := rfl
@[simp] theorem pollPhase_stack (s : State) : (pollPhase s).stack = s.stack := rfl
@[simp] theorem pollPhase_mem (s : State) : (pollPhase s).mem = s.mem := rfl
@[simp] theorem pollPhase_fb (s : State) : (pollPhase s).fb = s.fb := rfl
@[simp] theorem pollPhase_dirty (s : State) : (pollPhase s).dirty = s.dirty := rfl
@[simp] theorem pollPhase_life (s : State) : (pollPhase s).life = s.life := rfl
@[simp] theorem pollPhase_slot (s : State) : (pollPhase s).slot = s.slot := rfl
@[simp] theorem pollPhase_phase (s : State) : (pollPhase s).phase = .decrement := rfl
@[simp] theorem pollPhase_stopRequested (s : State) :
    (pollPhase s).stopRequested =
      (s.stopRequested || Config.pollShutdownRequested s.drawn) := rfl
@[simp] theorem pollPhase_params (s : State) : (pollPhase s).params = s.params := rfl
@[simp] theorem pollPhase_drawn (s : State) : (pollPhase s).drawn = s.drawn + 1 := rfl
@[simp] theorem pollPhase_frameOut (s : State) : (pollPhase s).frameOut = s.frameOut := rfl

/-! ## Decrement (60_exceptions.md R723) -/

@[simp] theorem decrementPhase_v (s : State) : (decrementPhase s).v = s.v := rfl
@[simp] theorem decrementPhase_idx (s : State) : (decrementPhase s).idx = s.idx := rfl
@[simp] theorem decrementPhase_pc (s : State) : (decrementPhase s).pc = s.pc := rfl
@[simp] theorem decrementPhase_dt (s : State) : (decrementPhase s).dt = decTimer s.dt := rfl
@[simp] theorem decrementPhase_st (s : State) : (decrementPhase s).st = decTimer s.st := rfl
@[simp] theorem decrementPhase_stack (s : State) : (decrementPhase s).stack = s.stack := rfl
@[simp] theorem decrementPhase_mem (s : State) : (decrementPhase s).mem = s.mem := rfl
@[simp] theorem decrementPhase_fb (s : State) : (decrementPhase s).fb = s.fb := rfl
@[simp] theorem decrementPhase_dirty (s : State) : (decrementPhase s).dirty = s.dirty := rfl
@[simp] theorem decrementPhase_life (s : State) : (decrementPhase s).life = s.life := rfl
@[simp] theorem decrementPhase_slot (s : State) : (decrementPhase s).slot = s.slot := rfl
@[simp] theorem decrementPhase_phase (s : State) : (decrementPhase s).phase = .sleep := rfl
@[simp] theorem decrementPhase_stopRequested (s : State) :
    (decrementPhase s).stopRequested =
      s.stopRequested := rfl
@[simp] theorem decrementPhase_params (s : State) : (decrementPhase s).params = s.params := rfl
@[simp] theorem decrementPhase_drawn (s : State) : (decrementPhase s).drawn = s.drawn := rfl
@[simp] theorem decrementPhase_frameOut (s : State) :
    (decrementPhase s).frameOut =
      s.frameOut := rfl

/-! ## the next frame begins (60_exceptions.md R720) -/

@[simp] theorem nextFrame_v (s : State) : (nextFrame s).v = s.v := rfl
@[simp] theorem nextFrame_idx (s : State) : (nextFrame s).idx = s.idx := rfl
@[simp] theorem nextFrame_pc (s : State) : (nextFrame s).pc = s.pc := rfl
@[simp] theorem nextFrame_dt (s : State) : (nextFrame s).dt = s.dt := rfl
@[simp] theorem nextFrame_st (s : State) : (nextFrame s).st = s.st := rfl
@[simp] theorem nextFrame_stack (s : State) : (nextFrame s).stack = s.stack := rfl
@[simp] theorem nextFrame_mem (s : State) : (nextFrame s).mem = s.mem := rfl
@[simp] theorem nextFrame_fb (s : State) : (nextFrame s).fb = s.fb := rfl
@[simp] theorem nextFrame_dirty (s : State) : (nextFrame s).dirty = s.dirty := rfl
@[simp] theorem nextFrame_life (s : State) : (nextFrame s).life = s.life := rfl
@[simp] theorem nextFrame_slot (s : State) : (nextFrame s).slot = 0 := rfl
@[simp] theorem nextFrame_phase (s : State) : (nextFrame s).phase = .batch := rfl
@[simp] theorem nextFrame_stopRequested (s : State) :
    (nextFrame s).stopRequested =
      s.stopRequested := rfl
@[simp] theorem nextFrame_params (s : State) : (nextFrame s).params = s.params := rfl
@[simp] theorem nextFrame_drawn (s : State) : (nextFrame s).drawn = s.drawn := rfl
@[simp] theorem nextFrame_frameOut (s : State) : (nextFrame s).frameOut = s.frameOut := rfl

/-! ## the host's key answer (48_misc.md R583) -/

@[simp] theorem keyAnswer_v (s : State) (x : Reg) (k : Key) :
    (keyAnswer x k s).v =
      s.v.set x.toFin (k.setWidth 8) := rfl
@[simp] theorem keyAnswer_idx (s : State) (x : Reg) (k : Key) : (keyAnswer x k s).idx = s.idx := rfl
@[simp] theorem keyAnswer_pc (s : State) (x : Reg) (k : Key) : (keyAnswer x k s).pc = s.seqPc := rfl
@[simp] theorem keyAnswer_dt (s : State) (x : Reg) (k : Key) : (keyAnswer x k s).dt = s.dt := rfl
@[simp] theorem keyAnswer_st (s : State) (x : Reg) (k : Key) : (keyAnswer x k s).st = s.st := rfl
@[simp] theorem keyAnswer_stack (s : State) (x : Reg) (k : Key) :
    (keyAnswer x k s).stack =
      s.stack := rfl
@[simp] theorem keyAnswer_mem (s : State) (x : Reg) (k : Key) : (keyAnswer x k s).mem = s.mem := rfl
@[simp] theorem keyAnswer_fb (s : State) (x : Reg) (k : Key) : (keyAnswer x k s).fb = s.fb := rfl
@[simp] theorem keyAnswer_dirty (s : State) (x : Reg) (k : Key) :
    (keyAnswer x k s).dirty =
      s.dirty := rfl
@[simp] theorem keyAnswer_life (s : State) (x : Reg) (k : Key) :
    (keyAnswer x k s).life =
      .ready := rfl
@[simp] theorem keyAnswer_slot (s : State) (x : Reg) (k : Key) :
    (keyAnswer x k s).slot =
      s.slot + 1 := rfl
@[simp] theorem keyAnswer_phase (s : State) (x : Reg) (k : Key) :
    (keyAnswer x k s).phase =
      s.phase := rfl
@[simp] theorem keyAnswer_stopRequested (s : State) (x : Reg) (k : Key) :
    (keyAnswer x k s).stopRequested =
      s.stopRequested := rfl
@[simp] theorem keyAnswer_params (s : State) (x : Reg) (k : Key) :
    (keyAnswer x k s).params =
      s.params := rfl
@[simp] theorem keyAnswer_drawn (s : State) (x : Reg) (k : Key) :
    (keyAnswer x k s).drawn =
      s.drawn := rfl
@[simp] theorem keyAnswer_frameOut (s : State) (x : Reg) (k : Key) :
    (keyAnswer x k s).frameOut =
      s.frameOut := rfl

/-! ## the effects of DXYN (46_draw.md R520) -/

@[simp] theorem drawEffect_v (s : State) (d : DrawAcc) :
    (drawEffect d s).v =
      s.v.set regVF.toFin (flagByte (collisionBit s.params.drawVfPolicy d.any d.last s.drawn)) := rfl
@[simp] theorem drawEffect_idx (s : State) (d : DrawAcc) : (drawEffect d s).idx = s.idx := rfl
@[simp] theorem drawEffect_pc (s : State) (d : DrawAcc) : (drawEffect d s).pc = s.seqPc := rfl
@[simp] theorem drawEffect_dt (s : State) (d : DrawAcc) : (drawEffect d s).dt = s.dt := rfl
@[simp] theorem drawEffect_st (s : State) (d : DrawAcc) : (drawEffect d s).st = s.st := rfl
@[simp] theorem drawEffect_stack (s : State) (d : DrawAcc) : (drawEffect d s).stack = s.stack := rfl
@[simp] theorem drawEffect_mem (s : State) (d : DrawAcc) : (drawEffect d s).mem = s.mem := rfl
@[simp] theorem drawEffect_fb (s : State) (d : DrawAcc) : (drawEffect d s).fb = d.fb := rfl
@[simp] theorem drawEffect_dirty (s : State) (d : DrawAcc) : (drawEffect d s).dirty = true := rfl
@[simp] theorem drawEffect_life (s : State) (d : DrawAcc) : (drawEffect d s).life = s.life := rfl
@[simp] theorem drawEffect_slot (s : State) (d : DrawAcc) :
    (drawEffect d s).slot =
      s.slot + 1 := rfl
@[simp] theorem drawEffect_phase (s : State) (d : DrawAcc) : (drawEffect d s).phase = s.phase := rfl
@[simp] theorem drawEffect_stopRequested (s : State) (d : DrawAcc) :
    (drawEffect d s).stopRequested =
      s.stopRequested := rfl
@[simp] theorem drawEffect_params (s : State) (d : DrawAcc) :
    (drawEffect d s).params =
      s.params := rfl
@[simp] theorem drawEffect_drawn (s : State) (d : DrawAcc) :
    (drawEffect d s).drawn =
      s.drawn + collisionDraws s.params.drawVfPolicy d.any d.last := rfl
@[simp] theorem drawEffect_frameOut (s : State) (d : DrawAcc) :
    (drawEffect d s).frameOut =
      s.frameOut := rfl

/-! ## Reading registers -/

/-- A register read after a write: the written byte for the same register, else the old one. -/
@[simp] theorem State.getV_setV (s : State) (x r : Reg) (b : Byte) :
    (s.setV x b).getV r = if r = x then b else s.getV r := by
  simp only [State.getV, State.setV, Vector.get_eq_getElem, Vector.getElem_set]
  by_cases e : r = x
  · simp [e]
  · have : (x.toFin : Nat) ≠ r.toFin := fun c => e (BitVec.eq_of_toNat_eq c.symm)
    rw [if_neg this, if_neg e]

/-- A register reads the same in two states with the same register file. -/
theorem State.getV_congr {s t : State} (h : t.v = s.v) (r : Reg) : t.getV r = s.getV r := by
  simp only [State.getV, h]

@[simp] theorem State.setIdx_getV (s : State) (a : Word) (q : Reg) : (s.setIdx a).getV q = s.getV q := rfl
@[simp] theorem State.setDt_getV (s : State) (b : Byte) (q : Reg) : (s.setDt b).getV q = s.getV q := rfl
@[simp] theorem State.setSt_getV (s : State) (b : Byte) (q : Reg) : (s.setSt b).getV q = s.getV q := rfl
@[simp] theorem State.setStack_getV (s : State) (l : List Word) (q : Reg) : (s.setStack l).getV q = s.getV q := rfl
@[simp] theorem State.setLife_getV (s : State) (l : Life) (q : Reg) : (s.setLife l).getV q = s.getV q := rfl
@[simp] theorem State.store_getV (s : State) (a : Nat) (l : List Byte) (q : Reg) : (s.store a l).getV q = s.getV q := rfl
@[simp] theorem State.setFb_getV (s : State) (g : Framebuffer) (q : Reg) : (s.setFb g).getV q = s.getV q := rfl
@[simp] theorem State.complete_getV (s : State) (a : Word) (q : Reg) : (s.complete a).getV q = s.getV q := rfl
@[simp] theorem State.raise_getV (s : State) (f : FaultRecord) (q : Reg) : (s.raise f).getV q = s.getV q := rfl
@[simp] theorem State.consume_getV (s : State) (n : Nat) (q : Reg) : (s.consume n).getV q = s.getV q := rfl
@[simp] theorem endBatch_getV (s : State) (q : Reg) : (endBatch s).getV q = s.getV q := rfl
@[simp] theorem pollPhase_getV (s : State) (q : Reg) : (pollPhase s).getV q = s.getV q := rfl
@[simp] theorem decrementPhase_getV (s : State) (q : Reg) : (decrementPhase s).getV q = s.getV q := rfl
@[simp] theorem nextFrame_getV (s : State) (q : Reg) : (nextFrame s).getV q = s.getV q := rfl

@[simp] theorem drawEffect_getV (d : DrawAcc) (s : State) (q : Reg) :
    (drawEffect d s).getV q =
      if q = regVF then flagByte (collisionBit s.params.drawVfPolicy d.any d.last s.drawn)
      else s.getV q :=
  State.getV_setV s regVF q _

@[simp] theorem keyAnswer_getV (x : Reg) (k : Key) (s : State) (q : Reg) :
    (keyAnswer x k s).getV q = if q = x then k.setWidth 8 else s.getV q :=
  State.getV_setV s x q _

/-! ## The next PC depends on PC alone -/

@[simp] theorem State.seqPc_consume (s : State) (n : Nat) : (s.consume n).seqPc = s.seqPc := rfl

@[simp] theorem State.skipPc_consume (s : State) (n : Nat) : (s.consume n).skipPc = s.skipPc := rfl

end Sys2Proof.Machine
end

