-- ==== Sys2Proof/Laws/Draw.lean ====
section
/-! SUPPORT. The display buffer pixel by pixel, and the draw loop as one pass over the sprite's target
pixels. -/

namespace Sys2Proof.Machine

/-- One pixel toggled: it is negated, every other pixel is unchanged. -/
@[simp] theorem pixelAt_togglePixel (fb : Framebuffer) (k j : Pixel) :
    pixelAt (togglePixel fb k) j = if j = k then !pixelAt fb k else pixelAt fb j := by
  simp only [pixelAt, togglePixel, pixelRow, Vector.get_eq_getElem, Vector.getElem_set]
  by_cases hr : k.val / 64 = j.val / 64
  · rw [if_pos hr]
    have hc : k.val % 64 < 64 := Nat.mod_lt _ (by omega)
    have hd : j.val % 64 < 64 := Nat.mod_lt _ (by omega)
    by_cases h : j = k
    · subst h
      simp [hc]
    · have hne : j.val % 64 ≠ k.val % 64 := fun e => h (Fin.ext (by omega))
      rw [if_neg h]
      simp only [BitVec.getLsbD_xor, BitVec.getLsbD_shiftLeft, BitVec.getLsbD_one, hr]
      by_cases h1 : j.val % 64 < k.val % 64
      · simp [h1]
      · have h2 : j.val % 64 - k.val % 64 ≠ 0 := by omega
        simp [h2]
  · have h : j ≠ k := fun e => hr (by rw [e])
    rw [if_neg hr, if_neg h]

/-- Every pixel of the cleared buffer is false (41_control.md R401). -/
@[simp] theorem pixelAt_clearFb (k : Pixel) : pixelAt clearFb k = false := by
  simp [pixelAt, clearFb, Vector.get_eq_getElem]

/-- One set bit of a sprite. -/
def drawHit (acc : DrawAcc) (k : Pixel) : DrawAcc := drawBit true k acc

/-- The columns of a row as one pass over its target pixels. -/
theorem drawCols_eq_foldl (byte : Byte) (ox oy r count c : Nat) (acc : DrawAcc) :
    drawCols byte ox oy r count c acc =
      ((List.range' c count).filterMap fun d =>
        if spriteBit byte d then some (pixelIndex ox oy r d) else none).foldl drawHit acc := by
  induction count generalizing c acc with
  | zero => rfl
  | succ n ih =>
    simp only [drawCols, ih, List.range'_succ, List.filterMap_cons]
    cases spriteBit byte c <;> simp [drawBit, drawHit]

/-- The draw loop as one pass over the sprite's target pixels, in processing order
(46_draw.md R520, R523). -/
theorem drawSprite_eq_foldl (mem : Memory) (base ox oy n : Nat) (fb : Framebuffer) :
    drawSprite mem base ox oy n fb =
      (spriteTargets mem base ox oy n).foldl drawHit { fb := fb, any := false, last := false } := by
  have rows : ∀ count r acc, drawRows mem base ox oy count r acc =
      ((List.range' r count).flatMap fun q => (List.range 8).filterMap fun c =>
        if spriteBit (mem.read (base + q)) c then some (pixelIndex ox oy q c)
        else none).foldl drawHit acc := by
    intro count
    induction count with
    | zero => intro r acc; rfl
    | succ m ih =>
      intro r acc
      simp only [drawRows, ih, List.range'_succ, List.flatMap_cons, List.foldl_append,
        drawCols_eq_foldl, List.range_eq_range']
  rw [drawSprite, rows, spriteTargets, List.range_eq_range' (n := n)]

/-- Toggling a pixel that is not among some targets is unaffected by them. -/
theorem foldl_drawHit_pixelAt_of_notMem (l : List Pixel) (acc : DrawAcc) (k : Pixel) (h : k ∉ l) :
    pixelAt (l.foldl drawHit acc).fb k = pixelAt acc.fb k := by
  induction l generalizing acc with
  | nil => rfl
  | cons j rest ih =>
    simp only [List.mem_cons, not_or] at h
    simp only [List.foldl_cons]
    rw [ih _ h.2]
    simp [drawHit, drawBit, h.1]

/-- After one pass over distinct targets every target is negated. -/
theorem foldl_drawHit_pixelAt_of_mem (l : List Pixel) (acc : DrawAcc) (k : Pixel) (hd : l.Nodup)
    (h : k ∈ l) : pixelAt (l.foldl drawHit acc).fb k = !pixelAt acc.fb k := by
  induction l generalizing acc with
  | nil => simp at h
  | cons j rest ih =>
    rw [List.nodup_cons] at hd
    simp only [List.foldl_cons]
    by_cases e : k = j
    · subst e
      rw [foldl_drawHit_pixelAt_of_notMem _ _ _ hd.1]
      simp [drawHit, drawBit]
    · rw [ih _ hd.2 (by simpa [e] using h)]
      simp [drawHit, drawBit, e]

/-- After one pass over distinct targets `any` says whether some target was lit before
(46_draw.md R524). -/
theorem foldl_drawHit_any (l : List Pixel) (acc : DrawAcc) (hd : l.Nodup) :
    (l.foldl drawHit acc).any = (acc.any || l.any (pixelAt acc.fb)) := by
  induction l generalizing acc with
  | nil => simp
  | cons j rest ih =>
    rw [List.nodup_cons] at hd
    simp only [List.foldl_cons, ih _ hd.2, List.any_cons]
    have : rest.any (pixelAt (drawHit acc j).fb) = rest.any (pixelAt acc.fb) := by
      rw [Bool.eq_iff_iff, List.any_eq_true, List.any_eq_true]
      refine exists_congr fun x => and_congr_right fun hx => ?_
      have hne : x ≠ j := fun e => hd.1 (e ▸ hx)
      simp [drawHit, drawBit, hne]
    rw [this]
    simp [drawHit, drawBit, Bool.or_assoc]

/-- After one pass over distinct targets `last` says whether the last target was lit before
(46_draw.md R524). -/
theorem foldl_drawHit_last (l : List Pixel) (acc : DrawAcc) (hd : l.Nodup) :
    (l.foldl drawHit acc).last = (l.getLast?.map (pixelAt acc.fb)).getD acc.last := by
  induction l generalizing acc with
  | nil => simp
  | cons j rest ih =>
    rw [List.nodup_cons] at hd
    simp only [List.foldl_cons, ih _ hd.2]
    cases rest with
    | nil => simp [drawHit, drawBit]
    | cons m rest =>
      rw [List.getLast?_cons_cons]
      obtain ⟨z, hz⟩ : ∃ z, (m :: rest).getLast? = some z := by
        simp [List.getLast?_eq_some_getLast]
      have hne : z ≠ j := fun e => hd.1 (e ▸ List.mem_of_getLast? hz)
      simp [hz, drawHit, drawBit, hne]

end Sys2Proof.Machine
end

