-- ==== Sys2Proof/Laws/Encoding.lean ====
section
/-! SUPPORT. The fields of an assembled word are the fields it was assembled from (30_encoding.md R301,
R303), and a word is its two bytes (20_memory.md R202). -/

namespace Sys2Proof

/-! ## Format A -/

@[simp] theorem fieldC_formatA (c : BitVec 4) (nnn : Addr) : fieldC (formatA c nnn) = c :=
  BitVec.extractLsb'_append_eq_left

@[simp] theorem fieldNNN_formatA (c : BitVec 4) (nnn : Addr) : fieldNNN (formatA c nnn) = nnn :=
  BitVec.extractLsb'_append_eq_right

/-! ## Formats XNN and XOP -/

@[simp] theorem fieldC_formatXNN (c : BitVec 4) (x : Reg) (nn : Byte) :
    fieldC (formatXNN c x nn) = c :=
  (BitVec.extractLsb'_append_eq_of_le (xhi := c ++ x) (by decide)).trans
    BitVec.extractLsb'_append_eq_left

@[simp] theorem fieldX_formatXNN (c : BitVec 4) (x : Reg) (nn : Byte) :
    fieldX (formatXNN c x nn) = x :=
  (BitVec.extractLsb'_append_eq_of_le (xhi := c ++ x) (by decide)).trans
    BitVec.extractLsb'_append_eq_right

@[simp] theorem fieldNN_formatXNN (c : BitVec 4) (x : Reg) (nn : Byte) :
    fieldNN (formatXNN c x nn) = nn :=
  BitVec.extractLsb'_append_eq_right (a := c ++ x)

/-! ## Format XYN -/

@[simp] theorem fieldC_formatXYN (c : BitVec 4) (x y : Reg) (n : BitVec 4) :
    fieldC (formatXYN c x y n) = c :=
  (BitVec.extractLsb'_append_eq_of_le (xhi := c ++ x) (xlo := y ++ n) (by decide)).trans
    BitVec.extractLsb'_append_eq_left

@[simp] theorem fieldX_formatXYN (c : BitVec 4) (x y : Reg) (n : BitVec 4) :
    fieldX (formatXYN c x y n) = x :=
  (BitVec.extractLsb'_append_eq_of_le (xhi := c ++ x) (xlo := y ++ n) (by decide)).trans
    BitVec.extractLsb'_append_eq_right

@[simp] theorem fieldY_formatXYN (c : BitVec 4) (x y : Reg) (n : BitVec 4) :
    fieldY (formatXYN c x y n) = y :=
  (BitVec.extractLsb'_append_eq_of_add_le (xhi := c ++ x) (xlo := y ++ n) (by decide)).trans
    BitVec.extractLsb'_append_eq_left

@[simp] theorem fieldN_formatXYN (c : BitVec 4) (x y : Reg) (n : BitVec 4) :
    fieldN (formatXYN c x y n) = n :=
  (BitVec.extractLsb'_append_eq_of_add_le (xhi := c ++ x) (xlo := y ++ n) (by decide)).trans
    BitVec.extractLsb'_append_eq_right

/-! ## A word and its bytes -/

/-- The word of a word's two bytes. -/
@[simp] theorem wordOfBytes_bytes (w : Word) :
    wordOfBytes (w.extractLsb' 8 8) (w.extractLsb' 0 8) = w := by
  refine (BitVec.extractLsb'_append_extractLsb'_eq_extractLsb' (x := w) (by decide)).trans ?_
  exact BitVec.extractLsb'_eq_self

/-- A word assembled from its own fields. -/
theorem formatXNN_fields (w : Word) : formatXNN (fieldC w) (fieldX w) (fieldNN w) = w := by
  have h : (fieldC w ++ fieldX w : BitVec 8) = w.extractLsb' 8 8 :=
    BitVec.extractLsb'_append_extractLsb'_eq_extractLsb' (x := w) (by decide)
  rw [formatXNN, h]
  exact wordOfBytes_bytes w

theorem formatXYN_fields (w : Word) :
    formatXYN (fieldC w) (fieldX w) (fieldY w) (fieldN w) = w := by
  have h : (fieldC w ++ fieldX w : BitVec 8) = w.extractLsb' 8 8 :=
    BitVec.extractLsb'_append_extractLsb'_eq_extractLsb' (x := w) (by decide)
  have h' : (fieldY w ++ fieldN w : BitVec 8) = w.extractLsb' 0 8 :=
    BitVec.extractLsb'_append_extractLsb'_eq_extractLsb' (x := w) (by decide)
  rw [formatXYN, h, h']
  exact wordOfBytes_bytes w

theorem formatA_fields (w : Word) : formatA (fieldC w) (fieldNNN w) = w := by
  refine (BitVec.extractLsb'_append_extractLsb'_eq_extractLsb' (x := w) (by decide)).trans ?_
  exact BitVec.extractLsb'_eq_self

end Sys2Proof
end

