-- ==== Sys2Proof/Laws/Memory.lean ====
section
/-! SUPPORT. Reading after writing, and the canonical form: every memory operation keeps it. -/

namespace Sys2Proof.Machine

/-! ## Reading -/

theorem Memory.read_erase (m : Memory) (a b : Nat) :
    (m.erase a).read b = if b = a then unlisted b else m.read b := by
  induction m with
  | nil => simp [Memory.erase, Memory.read]
  | cons e rest ih =>
    obtain ⟨k, w⟩ := e
    by_cases hk : k = a
    · subst hk
      simp only [Memory.erase, if_true, ih, Memory.read]
      by_cases hb : b = k
      · simp [hb]
      · simp [hb, Ne.symm hb]
    · simp only [Memory.erase, if_neg hk, Memory.read, ih]
      by_cases hb : b = a
      · subst hb; simp [hk]
      · simp [hb]

theorem Memory.read_insert (m : Memory) (a b : Nat) (v : Byte) (h : ∀ c, m.read a = c → c = unlisted a)
    (hm : ∀ e ∈ m, e.1 ≠ a) : (m.insert a v).read b = if b = a then v else m.read b := by
  induction m with
  | nil =>
    simp only [Memory.insert, Memory.read]
    by_cases hb : b = a
    · simp [hb]
    · simp [hb, Ne.symm hb]
  | cons e rest ih =>
    obtain ⟨k, w⟩ := e
    have hk : k ≠ a := hm (k, w) (by simp)
    by_cases hlt : a < k
    · simp only [Memory.insert, if_pos hlt, Memory.read]
      by_cases hb : b = a
      · simp [hb]
      · simp [hb, Ne.symm hb]
    · simp only [Memory.insert, if_neg hlt, Memory.read]
      have h' : ∀ c, Memory.read rest a = c → c = unlisted a := by
        intro c hc; apply h; simp [Memory.read, hk, hc]
      rw [ih h' (fun e he => hm e (by simp [he]))]
      by_cases hb : b = a
      · subst hb; simp [hk]
      · simp [hb]

theorem Memory.mem_erase {m : Memory} {a : Nat} {e : Host.Cell} (h : e ∈ m.erase a) :
    e ∈ m ∧ e.1 ≠ a := by
  induction m with
  | nil => simp [Memory.erase] at h
  | cons f rest ih =>
    obtain ⟨k, w⟩ := f
    by_cases hk : k = a
    · simp only [Memory.erase, if_pos hk] at h
      exact ⟨by simp [(ih h).1], (ih h).2⟩
    · simp only [Memory.erase, if_neg hk, List.mem_cons] at h
      rcases h with rfl | h
      · exact ⟨by simp, hk⟩
      · exact ⟨by simp [(ih h).1], (ih h).2⟩

/-- Reading after one write: the byte written at its address, every other byte as before, in any
memory. -/
@[simp] theorem Memory.read_write (m : Memory) (a b : Nat) (v : Byte) :
    (m.write a v).read b = if b = a then v else m.read b := by
  unfold Memory.write
  by_cases hv : v = unlisted a
  · simp only [if_pos hv, Memory.read_erase]
    by_cases hb : b = a <;> simp [hb, hv]
  · simp only [if_neg hv]
    rw [Memory.read_insert _ _ _ _ (fun c hc => by rw [← hc]; simp [Memory.read_erase])
      (fun e he => (Memory.mem_erase he).2), Memory.read_erase]
    by_cases hb : b = a <;> simp [hb]

/-- Reading after writing some bytes from a: the bytes there, every other byte as before. -/
theorem Memory.read_writeList (m : Memory) (a b : Nat) (bytes : List Byte) :
    (m.writeList a bytes).read b =
      if a ≤ b ∧ b < a + bytes.length then bytes.getD (b - a) 0#8 else m.read b := by
  induction bytes generalizing m a with
  | nil => simp only [Memory.writeList, List.length_nil]; rw [if_neg (by omega)]
  | cons v rest ih =>
    simp only [Memory.writeList, ih, List.length_cons, Memory.read_write]
    by_cases h1 : b = a
    · subst h1
      rw [if_neg (by omega), if_pos rfl, if_pos (by omega)]
      simp
    · by_cases h2 : a + 1 ≤ b ∧ b < a + 1 + rest.length
      · rw [if_pos h2, if_pos (by omega)]
        obtain ⟨d, rfl⟩ : ∃ d, b = a + 1 + d := ⟨b - (a + 1), by omega⟩
        have e1 : a + 1 + d - (a + 1) = d := by omega
        have e2 : a + 1 + d - a = d + 1 := by omega
        rw [e1, e2]
        simp
      · rw [if_neg h2, if_neg h1, if_neg (by omega)]

/-! ## The canonical form -/

theorem Memory.wfFrom_cons (lo k : Nat) (b : Byte) (rest : Memory) :
    Memory.wfFrom lo ((k, b) :: rest) = true ↔
      lo ≤ k ∧ k < memSize ∧ b ≠ unlisted k ∧ Memory.wfFrom (k + 1) rest = true := by
  simp [Memory.wfFrom, and_assoc]

theorem Memory.wfFrom_mono {lo lo' : Nat} {m : Memory} (h : lo' ≤ lo)
    (hm : Memory.wfFrom lo m = true) : Memory.wfFrom lo' m = true := by
  cases m with
  | nil => rfl
  | cons e rest =>
    obtain ⟨k, b⟩ := e
    rw [Memory.wfFrom_cons] at hm ⊢
    exact ⟨by omega, hm.2⟩

theorem Memory.wfFrom_erase {lo : Nat} {m : Memory} (a : Nat) (hm : Memory.wfFrom lo m = true) :
    Memory.wfFrom lo (m.erase a) = true := by
  induction m generalizing lo with
  | nil => rfl
  | cons e rest ih =>
    obtain ⟨k, b⟩ := e
    rw [Memory.wfFrom_cons] at hm
    by_cases hk : k = a
    · simp only [Memory.erase, if_pos hk]
      exact Memory.wfFrom_mono (by omega) (ih hm.2.2.2)
    · simp only [Memory.erase, if_neg hk]
      rw [Memory.wfFrom_cons]
      exact ⟨hm.1, hm.2.1, hm.2.2.1, ih hm.2.2.2⟩

theorem Memory.wfFrom_insert {lo : Nat} {m : Memory} {a : Nat} {v : Byte} (hlo : lo ≤ a)
    (ha : a < memSize) (hv : v ≠ unlisted a) (hne : ∀ e ∈ m, e.1 ≠ a)
    (hm : Memory.wfFrom lo m = true) : Memory.wfFrom lo (m.insert a v) = true := by
  induction m generalizing lo with
  | nil => simp [Memory.insert, Memory.wfFrom, hlo, ha, hv]
  | cons e rest ih =>
    obtain ⟨k, b⟩ := e
    have hk : k ≠ a := hne (k, b) (by simp)
    rw [Memory.wfFrom_cons] at hm
    by_cases hlt : a < k
    · simp only [Memory.insert, if_pos hlt]
      rw [Memory.wfFrom_cons, Memory.wfFrom_cons]
      exact ⟨hlo, ha, hv, by omega, hm.2⟩
    · simp only [Memory.insert, if_neg hlt]
      rw [Memory.wfFrom_cons]
      exact ⟨hm.1, hm.2.1, hm.2.2.1,
        ih (by omega) (fun e he => hne e (by simp [he])) hm.2.2.2⟩

/-- A write below 4096 keeps the canonical form. -/
theorem Memory.wf_write {m : Memory} {a : Nat} {v : Byte} (ha : a < memSize)
    (hm : m.wf = true) : (m.write a v).wf = true := by
  unfold Memory.write
  by_cases hv : v = unlisted a
  · rw [if_pos hv]; exact Memory.wfFrom_erase a hm
  · rw [if_neg hv]
    exact Memory.wfFrom_insert (by omega) ha hv (fun e he => (Memory.mem_erase he).2)
      (Memory.wfFrom_erase a hm)

/-- Writing bytes that all lie below 4096 keeps the canonical form. -/
theorem Memory.wf_writeList {m : Memory} {a : Nat} {bytes : List Byte}
    (ha : a + bytes.length ≤ memSize) (hm : m.wf = true) : (m.writeList a bytes).wf = true := by
  induction bytes generalizing m a with
  | nil => exact hm
  | cons v rest ih =>
    simp only [List.length_cons] at ha
    exact ih (by omega) (Memory.wf_write (by omega) hm)

/-- The memory at reset has the canonical form. -/
theorem State.reset_mem_wf : State.reset.mem.wf = true := rfl

end Sys2Proof.Machine
end

