-- ==== Sys2Proof/Laws/Ops.lean ====
section
/-! SUPPORT. What each shared operation can do, said once: the bounds check, the loads, the fetch,
the writes of one register, the skips, the key tests. -/

namespace Sys2Proof.Machine

/-! ## The bounds check -/

/-- The smallest address outside memory, in closed form (60_exceptions.md R705). -/
theorem firstOutside_eq (base count : Nat) :
    firstOutside base count =
      if base + count ≤ memSize ∨ count = 0 then none else some (max base memSize) := by
  induction count generalizing base with
  | zero => simp [firstOutside]
  | succ n ih =>
    simp only [firstOutside, ih]
    by_cases h : memSize ≤ base
    · rw [if_pos h, if_neg (by omega), max_eq_left h]
    · rw [if_neg h]
      by_cases h2 : base + 1 + n ≤ memSize
      · rw [if_pos (Or.inl h2), if_pos (Or.inl (by omega))]
      · by_cases hn : n = 0
        · omega
        · rw [if_neg (by omega), if_neg (by omega), max_eq_right (by omega), max_eq_right (by omega)]

/-- The bounds check lets the instruction go on when every address is below 4096. -/
theorem checkData_inside {s : State} {i : Instr} {base count : Nat} {go : Result}
    (h : base + count ≤ memSize ∨ count = 0) : checkData s i base count go = go := by
  simp only [checkData, firstOutside_eq, if_pos h]

/-- The bounds check raises the fault when some address is not. -/
theorem checkData_outside {s : State} {i : Instr} {base count : Nat} {go : Result}
    (h : memSize < base + count) (hc : count ≠ 0) :
    checkData s i base count go =
      .next (s.raise (.dataOutOfBounds s.pc (encodeWord i) (max base memSize))) := by
  simp only [checkData, firstOutside_eq]
  rw [if_neg (by omega)]

/-- All the bounds check can do. -/
theorem checkData_cases {s t : State} {i : Instr} {base count : Nat} {go : Result}
    (h : checkData s i base count go = .next t) :
    ((base + count ≤ memSize ∨ count = 0) ∧ go = .next t) ∨
      (memSize < base + count ∧ count ≠ 0 ∧
        t = s.raise (.dataOutOfBounds s.pc (encodeWord i) (max base memSize))) := by
  by_cases hc : base + count ≤ memSize ∨ count = 0
  · exact .inl ⟨hc, by rw [← h, checkData_inside hc]⟩
  · have h1 : memSize < base + count := by omega
    have h2 : count ≠ 0 := by omega
    rw [checkData_outside h1 h2] at h
    exact .inr ⟨h1, h2, by injection h with h; exact h.symm⟩

/-! ## Bulk transfer -/

/-- A register number below 16 is its own value. -/
theorem regOf_toNat {j : Nat} (h : j < 16) : (regOf j).toNat = j := by
  simp [regOf, Nat.mod_eq_of_lt h]

theorem regOf_self (r : Reg) : regOf r.toNat = r := by simp [regOf]

/-- Every register after the load loop: those below count hold their bytes, the others are
unchanged (48_misc.md R592). -/
theorem loadLoop_getV (mem : Memory) (base count : Nat) (s : State) (r : Reg) (hc : count ≤ 16) :
    (loadLoop mem base count s).getV r =
      if r.toNat < count then mem.read (base + r.toNat) else s.getV r := by
  induction count with
  | zero => simp [loadLoop]
  | succ n ih =>
    simp only [loadLoop, State.getV_setV, ih (by omega)]
    by_cases h : r = regOf n
    · subst h
      rw [if_pos rfl, regOf_toNat (by omega), if_pos (by omega)]
    · have hr : r.toNat ≠ n := fun e => h (by rw [← e, regOf_self])
      rw [if_neg h]
      by_cases h2 : r.toNat < n
      · rw [if_pos h2, if_pos (by omega)]
      · rw [if_neg h2, if_neg (by omega)]

/-- The load loop changes registers only. -/
theorem loadLoop_eq (mem : Memory) (base count : Nat) (s : State) :
    loadLoop mem base count s = { s with v := (loadLoop mem base count s).v } := by
  induction count with
  | zero => rfl
  | succ n ih =>
    simp only [loadLoop]
    rw [ih]
    rfl

/-- The bytes FX55 stores. -/
theorem firstRegs_getD (s : State) {count j : Nat} (h : j < count) :
    (firstRegs s count).getD j 0#8 = s.getV (regOf j) := by
  simp [firstRegs, List.getD_eq_getElem?_getD, List.getElem?_range h]

@[simp] theorem firstRegs_length (s : State) (count : Nat) :
    (firstRegs s count).length = count := by simp [firstRegs]

/-! ## Fetch -/

/-- A fetch past 0x0FFE. -/
theorem fetch_outside {s : State} (h : lastFetch < s.pc.toNat) :
    fetch s = .error (.fetchOutOfBounds s.pc) := by simp [fetch, h]

/-- A fetch inside memory decodes the word at PC. -/
theorem fetch_inside {s : State} (h : s.pc.toNat ≤ lastFetch) :
    fetch s =
      match decodeWord (wordOfBytes (s.mem.read s.pc.toNat) (s.mem.read (s.pc.toNat + 1))) with
      | some i => .ok i
      | none => .error (.illegalInstruction s.pc
          (wordOfBytes (s.mem.read s.pc.toNat) (s.mem.read (s.pc.toNat + 1)))) := by
  simp only [fetch, if_neg (Nat.not_lt.2 h), decode, fetchBytes]
  cases decodeWord (wordOfBytes (s.mem.read s.pc.toNat) (s.mem.read (s.pc.toNat + 1))) <;> rfl

/-! ## What the one-line meanings answer -/

theorem writeReg_eq (x : Reg) (b : Byte) (s : State) :
    writeReg x b s = .next ((s.setV x b).complete s.seqPc) := rfl

theorem writeRegFlag_eq (x : Reg) (b f : Byte) (s : State) :
    writeRegFlag x b f s = .next (((s.setV x b).setV regVF f).complete s.seqPc) := rfl

theorem writeIdx_eq (a : Word) (s : State) :
    writeIdx a s = .next ((s.setIdx a).complete s.seqPc) := rfl

theorem skipIf_eq (c : Bool) (s : State) :
    skipIf c s = .next (s.complete (if c then s.skipPc else s.seqPc)) := rfl

theorem storeBytes_eq (bytes : List Byte) (s : State) :
    storeBytes bytes s = .next ((s.store s.dataBase bytes).complete s.seqPc) := rfl

/-- All a key test can do (47_keys.md R560). -/
theorem keyTest_cases (i : Instr) (x : Reg) (wanted : Bool) (s : State) :
    (15 < (s.getV x).toNat ∧
      keyTest i x wanted s = .next (s.raise (.keyOutOfRange s.pc (encodeWord i) (s.getV x)))) ∨
    ((s.getV x).toNat ≤ 15 ∧
      keyTest i x wanted s =
        skipIf (Config.isKeyPressed s.drawn ((s.getV x).setWidth 4) == wanted) (s.consume 1)) := by
  by_cases h : (s.getV x).toNat ≤ 15
  · exact .inr ⟨h, by simp [keyTest, keyOperand, h]⟩
  · exact .inl ⟨by omega, by simp [keyTest, keyOperand, h]⟩

/-- All a key wait can do (48_misc.md R583). -/
theorem keyWait_cases (x : Reg) (s : State) :
    keyWait x s = s.consume 1 ∨ ∃ k, keyWait x s = keyAnswer x k (s.consume 1) := by
  unfold keyWait
  cases Config.waitForKeyPress s.drawn with
  | none => exact .inl rfl
  | some k => exact .inr ⟨k, rfl⟩

/-- All the Sleep phase can do (60_exceptions.md R720, R725). -/
theorem sleepPhase_cases {s t : State} (h : sleepPhase s = .next t) :
    s.life ≠ .halted ∧
      ((s.stopRequested = true ∧ t = s.setLife .stopped) ∨
        (s.stopRequested = false ∧ t = nextFrame s)) := by
  unfold sleepPhase at h
  by_cases hl : s.life = .halted
  · simp [hl] at h
  · refine ⟨hl, ?_⟩
    rw [if_neg hl] at h
    cases hs : s.stopRequested with
    | true => simp only [hs, if_true] at h; injection h with h; exact .inl ⟨rfl, h.symm⟩
    | false =>
      simp only [hs, Bool.false_eq_true, if_false] at h; injection h with h
      exact .inr ⟨rfl, h.symm⟩

/-- The phases other than Sleep always go on; all a scheduler step can do (60_exceptions.md R720). -/
theorem schedule_cases {s t : State} (h : schedule s = .next t) :
    (s.phase = .batch ∧ t = endBatch s) ∨ (s.phase = .push ∧ t = pushPhase s) ∨
      (s.phase = .poll ∧ t = pollPhase s) ∨ (s.phase = .decrement ∧ t = decrementPhase s) ∨
      (s.phase = .sleep ∧ sleepPhase s = .next t) := by
  unfold schedule at h
  cases hp : s.phase <;> simp only [hp] at h <;> first
    | (injection h with h; subst h; simp)
    | simp [h]

/-- All a step can do (10_state.md R114). -/
theorem step_cases {s t : State} (h : step s = .next t) :
    (s.life = .ready ∧ batchOpen s = true ∧
        ((∃ i, fetch s = .ok i ∧ exec i s = .next t) ∨ ∃ f, fetch s = .error f ∧ t = s.raise f)) ∨
      (s.life = .ready ∧ batchOpen s = false ∧ schedule s = .next t) ∨
      (∃ x, s.life = .waitingKey x ∧ t = keyWait x s) ∨
      (s.life = .halted ∧ schedule s = .next t) := by
  unfold step at h
  cases hl : s.life with
  | unloaded => simp [hl] at h
  | stopped => simp [hl] at h
  | faulted f => simp [hl] at h
  | halted => simp only [hl] at h; simp [h]
  | waitingKey x =>
    simp only [hl] at h; injection h with h
    exact .inr (.inr (.inl ⟨x, rfl, h.symm⟩))
  | ready =>
    simp only [hl] at h
    cases hb : batchOpen s with
    | false =>
      simp only [hb, Bool.false_eq_true, if_false] at h
      exact .inr (.inl ⟨rfl, rfl, h⟩)
    | true =>
      simp only [hb, if_true, runInstr] at h
      refine .inl ⟨rfl, rfl, ?_⟩
      cases hf : fetch s with
      | ok i => simp only [hf] at h; exact .inl ⟨i, rfl, h⟩
      | error f =>
        simp only [hf] at h; injection h with h
        exact .inr ⟨f, rfl, h.symm⟩

end Sys2Proof.Machine
end

