-- ==== Sys2Proof/Laws/Exec.lean ====
section
/-! SUPPORT. Everything an instruction can do, said once: it raises its own fault, or it has its effect.
Later proofs cite `exec_next` instead of unfolding the meanings. -/

namespace Sys2Proof.Machine

/-- The state an instruction leaves when it raises no fault. -/
def effect (i : Instr) (s : State) : State :=
  match i with
  | .halt => (s.setLife .halted).complete s.seqPc
  | .cls => (s.setFb clearFb).complete s.seqPc
  | .ret => (s.setStack s.stack.tail).complete (s.stack.headD 0#16 + 2#16)
  | .jp nnn => s.complete (zext16 nnn)
  | .call nnn => (s.setStack (s.pc :: s.stack)).complete (zext16 nnn)
  | .seImm x nn => s.complete (if s.getV x == nn then s.skipPc else s.seqPc)
  | .sneImm x nn => s.complete (if s.getV x != nn then s.skipPc else s.seqPc)
  | .seReg x y => s.complete (if s.getV x == s.getV y then s.skipPc else s.seqPc)
  | .ldImm x nn => (s.setV x nn).complete s.seqPc
  | .addImm x nn => (s.setV x (s.getV x + nn)).complete s.seqPc
  | .ldReg x y => (s.setV x (s.getV y)).complete s.seqPc
  | .orReg x y => (s.setV x (s.getV x ||| s.getV y)).complete s.seqPc
  | .andReg x y => (s.setV x (s.getV x &&& s.getV y)).complete s.seqPc
  | .xorReg x y => (s.setV x (s.getV x ^^^ s.getV y)).complete s.seqPc
  | .addReg x y =>
    ((s.setV x (s.getV x + s.getV y)).setV regVF
      (carryFlag (s.getV x) (s.getV y))).complete s.seqPc
  | .subReg x y =>
    ((s.setV x (s.getV x - s.getV y)).setV regVF
      (noBorrowFlag (s.getV x) (s.getV y))).complete s.seqPc
  | .shr x y =>
    ((s.setV x (shiftOperand s x y >>> 1)).setV regVF
      (shrFlag (shiftOperand s x y))).complete s.seqPc
  | .subnReg x y =>
    ((s.setV x (s.getV y - s.getV x)).setV regVF
      (noBorrowFlag (s.getV y) (s.getV x))).complete s.seqPc
  | .shl x y =>
    ((s.setV x (shiftOperand s x y <<< 1)).setV regVF
      (shlFlag s.params.shlVfBit (shiftOperand s x y))).complete s.seqPc
  | .sneReg x y => s.complete (if s.getV x != s.getV y then s.skipPc else s.seqPc)
  | .ldI nnn => (s.setIdx (zext16 nnn)).complete s.seqPc
  | .jpV0 nnn => s.complete (zext16 nnn + zextByte (s.getV 0#4))
  | .rnd x nn => ((s.consume 1).setV x (Config.rand s.drawn &&& nn)).complete s.seqPc
  | .drw x y n => drawEffect (drawResult x y n s) s
  | .skp x =>
    (s.consume 1).complete
      (if Config.isKeyPressed s.drawn ((s.getV x).setWidth 4) == true then s.skipPc else s.seqPc)
  | .sknp x =>
    (s.consume 1).complete
      (if Config.isKeyPressed s.drawn ((s.getV x).setWidth 4) == false then s.skipPc else s.seqPc)
  | .ldVxDt x => (s.setV x s.dt).complete s.seqPc
  | .ldVxK x => s.setLife (.waitingKey x)
  | .ldDtVx x => (s.setDt (s.getV x)).complete s.seqPc
  | .ldStVx x => (s.setSt (s.getV x)).complete s.seqPc
  | .addI x => (s.setIdx (s.idx + zextByte (s.getV x))).complete s.seqPc
  | .ldF x => (s.setIdx (glyphAddr (s.getV x))).complete s.seqPc
  | .ldB x => (s.store s.dataBase (bcdDigits (s.getV x))).complete s.seqPc
  | .storeRegs x => (s.store s.dataBase (firstRegs s (x.toNat + 1))).complete s.seqPc
  | .loadRegs x => (loadLoop s.mem s.dataBase (x.toNat + 1) s).complete s.seqPc

/-- The stack test of CALL (41_control.md R404). -/
theorem stackFull_iff (capacity : Option Nat) (stack : List Word) :
    stackFull capacity stack = true ↔ ∃ c, capacity = some c ∧ c ≤ stack.length := by
  cases capacity <;> simp [stackFull]

/-- A bounds-checked instruction raises its fault or goes on. -/
theorem checkData_split {s t u : State} {i : Instr} {n : Nat}
    (h : checkData s i s.dataBase n (.next u) = .next t) :
    (¬ InRange s n ∧ ∃ f, t = s.raise f) ∨ (InRange s n ∧ t = u) := by
  rcases checkData_cases h with ⟨hi, hn⟩ | ⟨h1, h2, rfl⟩
  · injection hn with hn
    exact .inr ⟨hi, hn.symm⟩
  · exact .inl ⟨by unfold InRange; omega, _, rfl⟩

/-- A key test raises its fault or skips by the host's answer. -/
theorem keyTest_split {s t : State} {i : Instr} {x : Reg} {w : Bool}
    (h : keyTest i x w s = .next t) :
    (15 < (s.getV x).toNat ∧ ∃ f, t = s.raise f) ∨
      ((s.getV x).toNat ≤ 15 ∧
        t = (s.consume 1).complete
          (if Config.isKeyPressed s.drawn ((s.getV x).setWidth 4) == w then s.skipPc
            else s.seqPc)) := by
  rcases keyTest_cases i x w s with ⟨hk, e⟩ | ⟨hk, e⟩ <;> rw [e] at h
  · injection h with h
    exact .inl ⟨hk, _, h.symm⟩
  · rw [skipIf_eq] at h
    injection h with h
    exact .inr ⟨hk, h.symm⟩

/-- Everything an instruction that answers a next state can have done. -/
theorem exec_next {i : Instr} {s t : State} (h : exec i s = .next t) :
    (FaultsIn i s ∧ ∃ f, t = s.raise f) ∨ (¬ FaultsIn i s ∧ t = effect i s) := by
  cases i
  case ret =>
    simp only [exec, execRet] at h
    cases hs : s.stack with
    | nil =>
      simp only [hs] at h; injection h with h
      exact .inl ⟨by simp [FaultsIn, hs], _, h.symm⟩
    | cons r rest =>
      simp only [hs] at h; injection h with h
      exact .inr ⟨by simp [FaultsIn, hs], by simp [← h, effect, hs]⟩
  case call nnn =>
    simp only [exec, execCall] at h
    by_cases hf : stackFull s.params.stackCapacity s.stack = true
    · rw [if_pos hf] at h; injection h with h
      exact .inl ⟨.inr (.inl ⟨nnn, rfl, (stackFull_iff _ _).1 hf⟩), _, h.symm⟩
    · rw [if_neg hf] at h; injection h with h
      rw [stackFull_iff] at hf
      exact .inr ⟨by simpa [FaultsIn] using hf, h.symm⟩
  case drw x y n =>
    rcases checkData_split h with ⟨hr, hf⟩ | ⟨hr, rfl⟩
    · exact .inl ⟨by simpa [FaultsIn] using hr, hf⟩
    · exact .inr ⟨by simpa [FaultsIn] using hr, rfl⟩
  case ldB x =>
    rcases checkData_split h with ⟨hr, hf⟩ | ⟨hr, rfl⟩
    · exact .inl ⟨by simpa [FaultsIn] using hr, hf⟩
    · exact .inr ⟨by simpa [FaultsIn] using hr, rfl⟩
  case storeRegs x =>
    rcases checkData_split h with ⟨hr, hf⟩ | ⟨hr, rfl⟩
    · exact .inl ⟨by simpa [FaultsIn] using hr, hf⟩
    · exact .inr ⟨by simpa [FaultsIn] using hr, rfl⟩
  case loadRegs x =>
    rcases checkData_split h with ⟨hr, hf⟩ | ⟨hr, rfl⟩
    · exact .inl ⟨by simpa [FaultsIn] using hr, hf⟩
    · exact .inr ⟨by simpa [FaultsIn] using hr, rfl⟩
  case skp x =>
    rcases keyTest_split h with ⟨hk, hf⟩ | ⟨hk, rfl⟩
    · exact .inl ⟨by simpa [FaultsIn] using hk, hf⟩
    · exact .inr ⟨by simpa [FaultsIn] using hk, rfl⟩
  case sknp x =>
    rcases keyTest_split h with ⟨hk, hf⟩ | ⟨hk, rfl⟩
    · exact .inl ⟨by simpa [FaultsIn] using hk, hf⟩
    · exact .inr ⟨by simpa [FaultsIn] using hk, rfl⟩
  all_goals
    injection h with h
    exact .inr ⟨by simp [FaultsIn], h.symm⟩

end Sys2Proof.Machine
end

