-- ==== Sys2Proof/Laws/PerInstr.lean ====
section
/-! SUPPORT. Per instruction: the word of a well-formed instruction lies in the instruction's row of
the opcode map (30_encoding.md R310). -/

namespace Sys2Proof.Laws.EncodedInRow

/-- The instruction's word selects the instruction's row, one of the table's (R310). -/
def Statement (i : Instr) : Prop :=
  i.WellFormed → i.row ∈ opcodeRows ∧ i.row.selects (encodeWord i) = true

/-- The two parts of the statement, whether or not the instruction is well-formed. -/
theorem of_selects {i : Instr} (h : i.row.selects (encodeWord i) = true)
    (hr : i.row ∈ opcodeRows) : Statement i := fun _ => ⟨hr, h⟩

theorem halt : Statement .halt := of_selects (by decide) (by decide)

theorem cls : Statement .cls := of_selects (by decide) (by decide)

theorem ret : Statement .ret := of_selects (by decide) (by decide)

theorem jp (nnn : Addr) : Statement (.jp nnn) :=
  of_selects (by revert nnn; decide +kernel) (by simp only [Instr.row]; decide)

theorem call (nnn : Addr) : Statement (.call nnn) :=
  of_selects (by revert nnn; decide +kernel) (by simp only [Instr.row]; decide)

theorem seImm (x : Reg) (nn : Byte) : Statement (.seImm x nn) :=
  of_selects (by revert x nn; decide +kernel) (by simp only [Instr.row]; decide)

theorem sneImm (x : Reg) (nn : Byte) : Statement (.sneImm x nn) :=
  of_selects (by revert x nn; decide +kernel) (by simp only [Instr.row]; decide)

theorem seReg (x y : Reg) : Statement (.seReg x y) :=
  of_selects (by revert x y; decide +kernel) (by simp only [Instr.row]; decide)

theorem ldImm (x : Reg) (nn : Byte) : Statement (.ldImm x nn) :=
  of_selects (by revert x nn; decide +kernel) (by simp only [Instr.row]; decide)

theorem addImm (x : Reg) (nn : Byte) : Statement (.addImm x nn) :=
  of_selects (by revert x nn; decide +kernel) (by simp only [Instr.row]; decide)

theorem ldReg (x y : Reg) : Statement (.ldReg x y) :=
  of_selects (by revert x y; decide +kernel) (by simp only [Instr.row]; decide)

theorem orReg (x y : Reg) : Statement (.orReg x y) :=
  of_selects (by revert x y; decide +kernel) (by simp only [Instr.row]; decide)

theorem andReg (x y : Reg) : Statement (.andReg x y) :=
  of_selects (by revert x y; decide +kernel) (by simp only [Instr.row]; decide)

theorem xorReg (x y : Reg) : Statement (.xorReg x y) :=
  of_selects (by revert x y; decide +kernel) (by simp only [Instr.row]; decide)

theorem addReg (x y : Reg) : Statement (.addReg x y) :=
  of_selects (by revert x y; decide +kernel) (by simp only [Instr.row]; decide)

theorem subReg (x y : Reg) : Statement (.subReg x y) :=
  of_selects (by revert x y; decide +kernel) (by simp only [Instr.row]; decide)

theorem shr (x y : Reg) : Statement (.shr x y) :=
  of_selects (by revert x y; decide +kernel) (by simp only [Instr.row]; decide)

theorem subnReg (x y : Reg) : Statement (.subnReg x y) :=
  of_selects (by revert x y; decide +kernel) (by simp only [Instr.row]; decide)

theorem shl (x y : Reg) : Statement (.shl x y) :=
  of_selects (by revert x y; decide +kernel) (by simp only [Instr.row]; decide)

theorem sneReg (x y : Reg) : Statement (.sneReg x y) :=
  of_selects (by revert x y; decide +kernel) (by simp only [Instr.row]; decide)

theorem ldI (nnn : Addr) : Statement (.ldI nnn) :=
  of_selects (by revert nnn; decide +kernel) (by simp only [Instr.row]; decide)

theorem jpV0 (nnn : Addr) : Statement (.jpV0 nnn) :=
  of_selects (by revert nnn; decide +kernel) (by simp only [Instr.row]; decide)

theorem rnd (x : Reg) (nn : Byte) : Statement (.rnd x nn) :=
  of_selects (by revert x nn; decide +kernel) (by simp only [Instr.row]; decide)

theorem drw (x y : Reg) (n : Nat) : Statement (.drw x y n) :=
  of_selects (by
    have h : ∀ (x y : Reg) (m : BitVec 4),
        (OpRow.mk 0xF000 0xD000).selects (formatXYN 0xD#4 x y m) = true := by decide +kernel
    exact h x y _) (by simp only [Instr.row]; decide)

theorem skp (x : Reg) : Statement (.skp x) :=
  of_selects (by revert x; decide +kernel) (by simp only [Instr.row]; decide)

theorem sknp (x : Reg) : Statement (.sknp x) :=
  of_selects (by revert x; decide +kernel) (by simp only [Instr.row]; decide)

theorem ldVxDt (x : Reg) : Statement (.ldVxDt x) :=
  of_selects (by revert x; decide +kernel) (by simp only [Instr.row]; decide)

theorem ldVxK (x : Reg) : Statement (.ldVxK x) :=
  of_selects (by revert x; decide +kernel) (by simp only [Instr.row]; decide)

theorem ldDtVx (x : Reg) : Statement (.ldDtVx x) :=
  of_selects (by revert x; decide +kernel) (by simp only [Instr.row]; decide)

theorem ldStVx (x : Reg) : Statement (.ldStVx x) :=
  of_selects (by revert x; decide +kernel) (by simp only [Instr.row]; decide)

theorem addI (x : Reg) : Statement (.addI x) :=
  of_selects (by revert x; decide +kernel) (by simp only [Instr.row]; decide)

theorem ldF (x : Reg) : Statement (.ldF x) :=
  of_selects (by revert x; decide +kernel) (by simp only [Instr.row]; decide)

theorem ldB (x : Reg) : Statement (.ldB x) :=
  of_selects (by revert x; decide +kernel) (by simp only [Instr.row]; decide)

theorem storeRegs (x : Reg) : Statement (.storeRegs x) :=
  of_selects (by revert x; decide +kernel) (by simp only [Instr.row]; decide)

theorem loadRegs (x : Reg) : Statement (.loadRegs x) :=
  of_selects (by revert x; decide +kernel) (by simp only [Instr.row]; decide)

end Sys2Proof.Laws.EncodedInRow
end

