-- ==== Sys2Proof/Tests/Slice0.lean ====
section
/-! SUPPORT. Tests, each expected result from spec/95_test_vectors.md or worked from the rule named, and
a witness for the hypotheses of each obligation. -/

namespace Sys2Proof.Tests
open Sys2Proof Sys2Proof.Machine

/-! ## Helpers -/

/-- Reset with an image loaded: life Ready. -/
def ready : State := { State.reset with life := .ready }

/-- A ready machine with some registers set. -/
def withRegs (l : List (Reg × Byte)) : State := l.foldl (fun s p => s.setV p.1 p.2) ready

/-- A ready machine with I and some bytes stored there. -/
def withBytes (a : Nat) (bytes : List Byte) (s : State) : State :=
  (s.setIdx (BitVec.ofNat 16 a)).store a bytes

/-- The step from s with the word w at PC gives a next state with the property. -/
def runs (s : State) (w : Nat) (p : State → Bool) : Bool :=
  match step (s.withFetchWord 16 w) with
  | .next t => p t
  | .fault _ => false
  | .refused _ => false

/-- The instruction answers a next state with the property. -/
def execGives (i : Instr) (s : State) (p : State → Bool) : Bool :=
  match exec i s with
  | .next t => p t
  | .fault _ => false
  | .refused _ => false

/-- The pixels of a list are lit, those of another are dark. -/
def lit (t : State) (on off : List Pixel) : Bool :=
  on.all (pixelAt t.fb) && off.all fun k => !pixelAt t.fb k

/-! ## Well-formedness (30_encoding.md R302) -/

theorem test_wf_row_count_fits : (Instr.drw 0x0#4 0x1#4 15).WellFormed := by decide
theorem test_wf_row_count_too_large : ¬ (Instr.drw 0x0#4 0x1#4 16).WellFormed := by decide

/-! ## Decoding: one word a constructor, its fields laid out as R303 says

Each word is written field by field from the pattern of R310; the high byte comes first (R202). -/

theorem test_decode_halt : decode [0b0000_0000#8, 0b0000_0000#8] = .ok (.halt, []) := by decide
theorem test_decode_cls : decode [0b0000_0000#8, 0b1110_0000#8] = .ok (.cls, []) := by decide
theorem test_decode_ret : decode [0b0000_0000#8, 0b1110_1110#8] = .ok (.ret, []) := by decide
theorem test_decode_jp :
    decode [0b0001_0010#8, 0b0011_0100#8] = .ok (.jp 0x234#12, []) := by decide
theorem test_decode_call :
    decode [0b0010_0011#8, 0b0000_0001#8] = .ok (.call 0x301#12, []) := by decide
theorem test_decode_seImm :
    decode [0b0011_0011#8, 0b0100_0010#8] = .ok (.seImm 0x3#4 0x42#8, []) := by decide
theorem test_decode_sneImm :
    decode [0b0100_0011#8, 0b0100_0010#8] = .ok (.sneImm 0x3#4 0x42#8, []) := by decide
theorem test_decode_seReg :
    decode [0b0101_0001#8, 0b0010_0000#8] = .ok (.seReg 0x1#4 0x2#4, []) := by decide
theorem test_decode_ldImm :
    decode [0b0110_1111#8, 0b1010_1010#8] = .ok (.ldImm 0xF#4 0xAA#8, []) := by decide
theorem test_decode_addImm :
    decode [0b0111_0010#8, 0b0010_0000#8] = .ok (.addImm 0x2#4 0x20#8, []) := by decide
theorem test_decode_ldReg :
    decode [0b1000_0001#8, 0b0010_0000#8] = .ok (.ldReg 0x1#4 0x2#4, []) := by decide
theorem test_decode_orReg :
    decode [0b1000_0001#8, 0b0010_0001#8] = .ok (.orReg 0x1#4 0x2#4, []) := by decide
theorem test_decode_andReg :
    decode [0b1000_0001#8, 0b0010_0010#8] = .ok (.andReg 0x1#4 0x2#4, []) := by decide
theorem test_decode_xorReg :
    decode [0b1000_0001#8, 0b0010_0011#8] = .ok (.xorReg 0x1#4 0x2#4, []) := by decide
theorem test_decode_addReg :
    decode [0b1000_0001#8, 0b0010_0100#8] = .ok (.addReg 0x1#4 0x2#4, []) := by decide
theorem test_decode_subReg :
    decode [0b1000_0001#8, 0b0010_0101#8] = .ok (.subReg 0x1#4 0x2#4, []) := by decide
theorem test_decode_shr :
    decode [0b1000_0001#8, 0b0010_0110#8] = .ok (.shr 0x1#4 0x2#4, []) := by decide
theorem test_decode_subnReg :
    decode [0b1000_0001#8, 0b0010_0111#8] = .ok (.subnReg 0x1#4 0x2#4, []) := by decide
theorem test_decode_shl :
    decode [0b1000_0001#8, 0b0010_1110#8] = .ok (.shl 0x1#4 0x2#4, []) := by decide
theorem test_decode_sneReg :
    decode [0b1001_0001#8, 0b0010_0000#8] = .ok (.sneReg 0x1#4 0x2#4, []) := by decide
theorem test_decode_ldI :
    decode [0b1010_0001#8, 0b0010_0011#8] = .ok (.ldI 0x123#12, []) := by decide
theorem test_decode_jpV0 :
    decode [0b1011_0010#8, 0b0000_0001#8] = .ok (.jpV0 0x201#12, []) := by decide
theorem test_decode_rnd :
    decode [0b1100_0011#8, 0b0000_1111#8] = .ok (.rnd 0x3#4 0x0F#8, []) := by decide
theorem test_decode_drw :
    decode [0b1101_0001#8, 0b0010_1111#8] = .ok (.drw 0x1#4 0x2#4 15, []) := by decide
theorem test_decode_skp :
    decode [0b1110_0101#8, 0b1001_1110#8] = .ok (.skp 0x5#4, []) := by decide
theorem test_decode_sknp :
    decode [0b1110_0101#8, 0b1010_0001#8] = .ok (.sknp 0x5#4, []) := by decide
theorem test_decode_ldVxDt :
    decode [0b1111_0011#8, 0b0000_0111#8] = .ok (.ldVxDt 0x3#4, []) := by decide
theorem test_decode_ldVxK :
    decode [0b1111_0100#8, 0b0000_1010#8] = .ok (.ldVxK 0x4#4, []) := by decide
theorem test_decode_ldDtVx :
    decode [0b1111_0010#8, 0b0001_0101#8] = .ok (.ldDtVx 0x2#4, []) := by decide
theorem test_decode_ldStVx :
    decode [0b1111_0010#8, 0b0001_1000#8] = .ok (.ldStVx 0x2#4, []) := by decide
theorem test_decode_addI :
    decode [0b1111_0001#8, 0b0001_1110#8] = .ok (.addI 0x1#4, []) := by decide
theorem test_decode_ldF :
    decode [0b1111_0001#8, 0b0010_1001#8] = .ok (.ldF 0x1#4, []) := by decide
theorem test_decode_ldB :
    decode [0b1111_0011#8, 0b0011_0011#8] = .ok (.ldB 0x3#4, []) := by decide
theorem test_decode_storeRegs :
    decode [0b1111_0010#8, 0b0101_0101#8] = .ok (.storeRegs 0x2#4, []) := by decide
theorem test_decode_loadRegs :
    decode [0b1111_1111#8, 0b0110_0101#8] = .ok (.loadRegs 0xF#4, []) := by decide

/-- R312, V-S7, V-S10, V-A27, V-K6, V-F21, V-E3, V-E4: illegal words of every class that has one. -/
theorem test_decode_illegal :
    [0x0001#16, 0x0123#16, 0x00E1#16, 0x0FFF#16, 0x5121#16, 0x512F#16, 0x8008#16, 0x800D#16, 0x800F#16,
     0x912F#16, 0xE59F#16, 0xE5A0#16, 0xF000#16, 0xF075#16, 0xF0FF#16].all
      (fun w => decodeWord w == none) = true := by decide

theorem test_decode_truncated : decode [0x60#8] = .error .truncated := by decide

/-- The host's numbering of a table word: bits 15 to 8 are the byte at the lower address. -/
theorem test_decodeTableWord : decodeTableWord 16 0x6A9D = some (.ldImm 0xA#4 0x9D#8) := by decide

/-- The bytes a placed word leaves in memory (R202). -/
theorem test_withFetchWord_bytes :
    (State.reset.withFetchWord 16 0x6A9D).mem.read 0x200 = 0x6A#8 ∧
      (State.reset.withFetchWord 16 0x6A9D).mem.read 0x201 = 0x9D#8 := by decide

/-! ## Control (V-C1 to V-C12) -/

theorem test_halt :
    runs ready 0x0000 (fun t => t.life == .halted && t.pc == 0x202#16) = true := by decide
theorem test_cls :
    runs (ready.setFb (togglePixel clearFb 5)) 0x00E0
      (fun t => t.fb == clearFb && t.dirty && t.pc == 0x202#16) = true := by decide
theorem test_ret :
    runs (ready.setStack [0x300#16]) 0x00EE (fun t => t.stack == [] && t.pc == 0x302#16) = true := by
  decide
theorem test_ret_underflow :
    runs ready 0x00EE (fun t => t.life == .faulted (.stackUnderflow 0x200#16 0x00EE#16) &&
      t.pc == 0x200#16) = true := by decide
theorem test_jp : runs ready 0x1201 (fun t => t.pc == 0x201#16) = true := by decide
theorem test_call :
    runs ready 0x2300 (fun t => t.stack == [0x200#16] && t.pc == 0x300#16) = true := by decide
theorem test_call_overflow :
    runs { ready with
        stack := [0x210#16, 0x200#16], params := { Params.default with stackCapacity := some 2 } }
      0x2300 (fun t => t.life == .faulted (.stackOverflow 0x200#16 0x2300#16) &&
        t.stack == [0x210#16, 0x200#16]) = true := by decide

/-! ## Skips (V-S1 to V-S9) -/

theorem test_seImm_taken :
    runs (withRegs [(0x3#4, 0x42#8)]) 0x3342 (fun t => t.pc == 0x204#16) = true := by decide
theorem test_seImm_not :
    runs (withRegs [(0x3#4, 0x41#8)]) 0x3342 (fun t => t.pc == 0x202#16) = true := by decide
theorem test_sneImm_taken :
    runs (withRegs [(0x3#4, 0x41#8)]) 0x4342 (fun t => t.pc == 0x204#16) = true := by decide
theorem test_sneImm_not :
    runs (withRegs [(0x3#4, 0x42#8)]) 0x4342 (fun t => t.pc == 0x202#16) = true := by decide
theorem test_seReg_taken :
    runs (withRegs [(0x1#4, 7#8), (0x2#4, 7#8)]) 0x5120 (fun t => t.pc == 0x204#16) = true := by decide
theorem test_seReg_not :
    runs (withRegs [(0x1#4, 7#8), (0x2#4, 8#8)]) 0x5120 (fun t => t.pc == 0x202#16) = true := by decide
theorem test_sneReg_taken :
    runs (withRegs [(0x1#4, 7#8), (0x2#4, 8#8)]) 0x9120 (fun t => t.pc == 0x204#16) = true := by decide
theorem test_sneReg_not :
    runs (withRegs [(0x1#4, 7#8), (0x2#4, 7#8)]) 0x9120 (fun t => t.pc == 0x202#16) = true := by decide

/-! ## Immediate and ALU (V-I1 to V-A26, L1.1 to L1.3) -/

theorem test_ldImm : runs ready 0x6FAA (fun t => t.getV 0xF#4 == 0xAA#8) = true := by decide
theorem test_addImm_wraps :
    runs (withRegs [(0x2#4, 0xF0#8), (0xF#4, 0x77#8)]) 0x7220
      (fun t => t.getV 0x2#4 == 0x10#8 && t.getV 0xF#4 == 0x77#8) = true := by decide
theorem test_ldReg :
    runs (withRegs [(0x1#4, 0x33#8)]) 0x8010 (fun t => t.getV 0x0#4 == 0x33#8) = true := by decide
theorem test_orReg :
    runs (withRegs [(0x0#4, 0x0F#8), (0x1#4, 0xF0#8), (0xF#4, 0x55#8)]) 0x8011
      (fun t => t.getV 0x0#4 == 0xFF#8 && t.getV 0xF#4 == 0x55#8) = true := by decide
theorem test_andReg :
    runs (withRegs [(0x0#4, 0x3C#8), (0x1#4, 0x0F#8)]) 0x8012
      (fun t => t.getV 0x0#4 == 0x0C#8) = true := by decide
theorem test_xorReg :
    runs (withRegs [(0x0#4, 0x3C#8), (0x1#4, 0x0F#8)]) 0x8013
      (fun t => t.getV 0x0#4 == 0x33#8) = true := by decide
theorem test_addReg_carry :
    runs (withRegs [(0x0#4, 0xFF#8), (0x1#4, 0x01#8)]) 0x8014
      (fun t => t.getV 0x0#4 == 0x00#8 && t.getV 0xF#4 == 1#8) = true := by decide
theorem test_addReg_into_VF :
    runs (withRegs [(0xF#4, 0x01#8), (0x1#4, 0x01#8)]) 0x8F14
      (fun t => t.getV 0xF#4 == 0#8) = true := by decide
theorem test_subReg_borrow :
    runs (withRegs [(0x0#4, 0x03#8), (0x1#4, 0x05#8)]) 0x8015
      (fun t => t.getV 0x0#4 == 0xFE#8 && t.getV 0xF#4 == 0#8) = true := by decide
theorem test_subReg_reads_old_VF :
    runs (withRegs [(0x0#4, 0x10#8), (0xF#4, 0x20#8)]) 0x80F5
      (fun t => t.getV 0x0#4 == 0xF0#8 && t.getV 0xF#4 == 0#8) = true := by decide
theorem test_shr_source_x :
    runs (withRegs [(0x0#4, 0x04#8), (0x1#4, 0xFF#8)]) 0x8016
      (fun t => t.getV 0x0#4 == 0x02#8 && t.getV 0xF#4 == 0#8) = true := by decide
theorem test_shr_source_y :
    runs { withRegs [(0x0#4, 0x04#8), (0x1#4, 0xFF#8)] with
        params := { Params.default with shiftSource := .y } } 0x8016
      (fun t => t.getV 0x0#4 == 0x7F#8 && t.getV 0xF#4 == 1#8) = true := by decide
theorem test_subnReg :
    runs (withRegs [(0x0#4, 0x01#8), (0x1#4, 0x00#8)]) 0x8017
      (fun t => t.getV 0x0#4 == 0xFF#8 && t.getV 0xF#4 == 0#8) = true := by decide
theorem test_shl_bit0 :
    runs (withRegs [(0x0#4, 0x41#8)]) 0x800E
      (fun t => t.getV 0x0#4 == 0x82#8 && t.getV 0xF#4 == 1#8) = true := by decide
theorem test_shl_bit7 :
    runs { withRegs [(0x0#4, 0x41#8)] with params := { Params.default with shlVfBit := .bit7 } } 0x800E
      (fun t => t.getV 0x0#4 == 0x82#8 && t.getV 0xF#4 == 0#8) = true := by decide

/-! ## Index, jump with offset, random (V-X1 to V-X6) -/

theorem test_ldI : runs ready 0xA123 (fun t => t.idx == 0x0123#16) = true := by decide
theorem test_jpV0_not_wrapped :
    runs (withRegs [(0x0#4, 0xFF#8)]) 0xBFFF (fun t => t.pc == 0x10FE#16) = true := by decide
theorem test_rnd_masked (s : State) :
    execGives (.rnd 0x3#4 0x00#8) s (fun t => t.getV 0x3#4 == 0x00#8) = true := by
  simp [execGives, exec, execRnd, writeReg]

/-! ## Draw (V-D1, V-D8; L1.6, V-D3, V-D5 to V-D7) -/

theorem test_drw_glyph :
    runs (withRegs [(0xF#4, 0x33#8)]) 0xD015 (fun t =>
      lit t [0, 1, 2, 3, 64, 67, 128, 131, 192, 195, 256, 257, 258, 259] [4, 65, 66, 68, 320] &&
        t.getV 0xF#4 == 0#8 && t.dirty) = true := by decide
theorem test_drw_policies_disagree :
    let s := withBytes 0x300 [0x80#8, 0x80#8] (ready.setFb (togglePixel clearFb 0))
    runs { s with params := { Params.default with drawVfPolicy := .any } } 0xD012
        (fun t => t.getV 0xF#4 == 1#8 && lit t [64] [0]) &&
      runs { s with params := { Params.default with drawVfPolicy := .last } } 0xD012
        (fun t => t.getV 0xF#4 == 0#8 && lit t [64] [0]) = true := by decide
theorem test_pixelIndex_wraps :
    pixelIndex 62 31 0 2 = 0 ∧ pixelIndex 63 0 0 1 = 64 ∧ pixelIndex 0 31 1 0 = 0 ∧
      pixelIndex 100 0 0 0 = 100 ∧ pixelIndex 255 255 0 0 = 191 := by decide

/-! ## Keys (V-K1 to V-K5) -/

theorem test_skp_asks :
    runs (withRegs [(0x5#4, 0x0A#8)]) 0xE59E (fun t =>
      t.pc == (if Config.isKeyPressed 0 0xA#4 then 0x204#16 else 0x202#16)) = true := by
  show ((if Config.isKeyPressed 0 0xA#4 == true then 0x204#16 else 0x202#16) ==
    (if Config.isKeyPressed 0 0xA#4 then 0x204#16 else 0x202#16)) = true
  simp
theorem test_skp_key_out_of_range :
    runs (withRegs [(0x5#4, 0x10#8)]) 0xE59E (fun t =>
      t.life == .faulted (.keyOutOfRange 0x200#16 0xE59E#16 0x10#8)) = true := by decide
theorem test_sknp_asks :
    runs (withRegs [(0x5#4, 0x0A#8)]) 0xE5A1 (fun t =>
      t.pc == (if Config.isKeyPressed 0 0xA#4 then 0x202#16 else 0x204#16)) = true := by
  show ((if Config.isKeyPressed 0 0xA#4 == false then 0x204#16 else 0x202#16) ==
    (if Config.isKeyPressed 0 0xA#4 then 0x202#16 else 0x204#16)) = true
  cases Config.isKeyPressed 0 0xA#4 <;> rfl

/-! ## Class F (V-F1 to V-F19) -/

theorem test_ldVxDt :
    runs (ready.setDt 0x3C#8) 0xF307 (fun t => t.getV 0x3#4 == 0x3C#8) = true := by decide
theorem test_ldDtVx :
    runs (withRegs [(0x2#4, 5#8)]) 0xF215 (fun t => t.dt == 5#8 && t.st == 0#8) = true := by decide
theorem test_ldStVx_tone_on :
    runs (withRegs [(0x2#4, 2#8)]) 0xF218 (fun t => t.st == 2#8 && toneOn ready t) = true := by decide
theorem test_ldVxK_waits :
    runs ready 0xF40A (fun t => t.life == .waitingKey 0x4#4 && t.pc == 0x200#16 && t.slot == 0) =
      true := by decide
theorem test_key_answer :
    let t := keyAnswer 0x4#4 0x7#4 { ready with pc := 0x300#16, life := .waitingKey 0x4#4 }
    t.getV 0x4#4 = 7#8 ∧ t.pc = 0x302#16 ∧ t.life = .ready ∧ t.slot = 1 := by decide
theorem test_addI_wraps :
    runs ((withRegs [(0x1#4, 0x01#8)]).setIdx 0xFFFF#16) 0xF11E (fun t => t.idx == 0#16) = true := by
  decide
theorem test_ldF_low_nibble :
    runs (withRegs [(0x0#4, 0x1A#8)]) 0xF029 (fun t => t.idx == 0x0032#16) = true := by decide
theorem test_ldB :
    runs ((withRegs [(0x3#4, 157#8)]).setIdx 0x0300#16) 0xF333 (fun t =>
      t.mem.read 0x300 == 1#8 && t.mem.read 0x301 == 5#8 && t.mem.read 0x302 == 7#8) = true := by
  decide
theorem test_ldB_out_of_bounds :
    runs ((withRegs [(0x3#4, 42#8)]).setIdx 0x0FFE#16) 0xF333 (fun t =>
      t.life == .faulted (.dataOutOfBounds 0x200#16 0xF333#16 0x1000) &&
        t.mem.read 0xFFE == 0#8) = true := by decide
theorem test_storeRegs_font :
    runs (withRegs [(0x0#4, 0xAB#8)]) 0xF055 (fun t =>
      t.mem.read 0x000 == 0xAB#8 && t.mem.read 0x001 == 0x90#8) = true := by decide
theorem test_storeRegs_out_of_bounds :
    runs ((withRegs [(0x0#4, 1#8)]).setIdx 0x0FF1#16) 0xFF55 (fun t =>
      t.life == .faulted (.dataOutOfBounds 0x200#16 0xFF55#16 0x1000) &&
        t.mem.read 0xFF1 == 0#8) = true := by decide
theorem test_loadRegs :
    runs (withBytes 0x400 [1#8, 5#8, 7#8, 9#8] ready) 0xF265 (fun t =>
      t.getV 0x0#4 == 1#8 && t.getV 0x2#4 == 7#8 && t.getV 0x3#4 == 0#8 && t.idx == 0x400#16) =
      true := by decide

/-! ## Scheduler, memory, font (V-T1, V-T2, V-E1, L1.8) -/

theorem test_decrement_floors :
    (decrementPhase (ready.setSt 1#8)).dt = 0#8 ∧ (decrementPhase (ready.setSt 1#8)).st = 0#8 := by
  decide
theorem test_push_sends_once :
    (pushPhase (ready.setFb clearFb)).frameOut = some clearFb ∧
      (pushPhase (ready.setFb clearFb)).dirty = false ∧ (pushPhase ready).frameOut = none := by decide
theorem test_fetch_last_odd :
    fetch { ready with pc := 0x0FFF#16 } = .error (.fetchOutOfBounds 0x0FFF#16) := by decide
theorem test_font_glyph_a :
    (List.range 5).map (fun k => State.reset.mem.read (0x32 + k)) =
      [0xF0#8, 0x90#8, 0xF0#8, 0x90#8, 0x90#8] := by decide
theorem test_font_length : fontBytes.length = 80 := by decide
theorem test_write_back_unlists :
    Memory.write (Memory.write [] 0x300 1#8) 0x300 0#8 = [] := by decide

/-! ## Witnesses: each shows values that meet all the hypotheses of the obligation it names

A statement of several clauses has one conjunct a clause, at a boundary of the clause's range. -/

/-- A ready machine whose next fetch is the word w. -/
def placed (w : Nat) : State := ready.withFetchWord 16 w

/-- A capacity of two for the call stack. -/
def boundedStack (l : List Word) : State :=
  { ready with stack := l, params := { Params.default with stackCapacity := some 2 } }

theorem witness_DecodeOfEncode :
    (Instr.drw 0xF#4 0xF#4 15).WellFormed ∧ (Instr.drw 0x0#4 0x0#4 0).WellFormed := by decide
theorem witness_EncodeOfDecode : decodeWord 0xDFFF#16 = some (.drw 0xF#4 0xF#4 15) := by decide
theorem witness_DecoderFollowsOpcodeMap :
    decodeWord 0xFF65#16 = some (.loadRegs 0xF#4) ∧
      ∀ r ∈ opcodeRows, r.selects 0xFF66#16 = false := by decide
theorem witness_NoWordMatchesTwoRows :
    (⟨0xF0FF, 0xF065⟩ : OpRow) ∈ opcodeRows ∧
      OpRow.selects ⟨0xF0FF, 0xF065⟩ 0xFF65#16 = true := by decide
theorem witness_InstructionsAreTwoBytes :
    decode [0x60#8, 0x05#8, 0x61#8] = .ok (.ldImm 0x0#4 0x05#8, [0x61#8]) ∧ ready ≠ ready.setIdx 5#16 ∧
      ready.pc = (ready.setIdx 5#16).pc ∧ ready.mem = (ready.setIdx 5#16).mem := by decide
theorem witness_StepRunsDecodedInstruction :
    (placed 0x8014).life = .ready ∧ (placed 0x8014).phase = .batch ∧ (placed 0x8014).slot < 10 ∧
      (placed 0x8014).pc.toNat ≤ 0x0FFE ∧
      decode [(placed 0x8014).mem.read (placed 0x8014).pc.toNat,
        (placed 0x8014).mem.read ((placed 0x8014).pc.toNat + 1)] =
          .ok (.addReg 0x0#4 0x1#4, []) := by decide
theorem witness_FetchFaults :
    let s := { placed 0x0001 with slot := 9 }
    let past := { ready with pc := 0x0FFF#16 }
    s.life = .ready ∧ s.phase = .batch ∧ s.slot < 10 ∧ s.pc.toNat ≤ 0x0FFE ∧
      decodeWord (s.mem.read s.pc.toNat ++ s.mem.read (s.pc.toNat + 1) : BitVec 16) = none ∧
      past.life = .ready ∧ past.phase = .batch ∧ past.slot < 10 ∧ 0x0FFE < past.pc.toNat := by decide
theorem witness_NoStepBeforeLoad :
    State.reset.life = .unloaded ∧
      (∀ l, (load none (State.construct l)).1 = .failure) ∧
      ∀ l, (load (some []) (State.construct l)).1 = .success := ⟨rfl, fun _ => rfl, fun _ => rfl⟩
theorem witness_WaitAndStopStates :
    let s := ready.setLife (.waitingKey 0x4#4)
    let h := ready.setLife .halted
    s.life = .waitingKey 0x4#4 ∧ step (placed 0xF40A) = .next ((placed 0xF40A).setLife s.life) ∧
      h.life = .halted ∧ step h = .next (endBatch h) ∧
      (ready.raise (.fetchOutOfBounds 0x0FFF#16)).life = .faulted (.fetchOutOfBounds 0x0FFF#16) ∧
      (ready.setLife .stopped).life = .stopped ∧
      step { ready with phase := .sleep } = .next (nextFrame { ready with phase := .sleep }) :=
  ⟨rfl, rfl, rfl, rfl, rfl, rfl, rfl⟩
theorem witness_ReturnEffect :
    (ready.setStack [0x0FFE#16]).stack = [0x0FFE#16] ∧ ready.stack = [] := by decide
theorem witness_CallEffect :
    (∀ c, ready.params.stackCapacity = some c → ready.stack.length < c) ∧
      (∀ c, (boundedStack [0x200#16]).params.stackCapacity = some c →
        (boundedStack [0x200#16]).stack.length < c) ∧
      ∃ c, (boundedStack [0x210#16, 0x200#16]).params.stackCapacity = some c ∧
        c ≤ (boundedStack [0x210#16, 0x200#16]).stack.length := by
  refine ⟨?_, ?_, 2, rfl, ?_⟩ <;> simp [ready, boundedStack, State.reset, Params.default]
theorem witness_CallThenReturn :
    let t := (ready.setStack [0x200#16]).complete 0x300#16
    (∀ c, ready.params.stackCapacity = some c → ready.stack.length < c) ∧
      exec (.call 0x300#12) ready = .next t ∧ t.stack = t.stack :=
  ⟨witness_CallEffect.1, rfl, rfl⟩
theorem witness_AddEffect_SubtractEffect : (0xE#4 : Reg) ≠ regVF ∧ (0x0#4 : Reg) ≠ 0xE#4 := by decide
theorem witness_ShiftRightEffect_ShiftLeftEffect :
    let s := withRegs [(0x0#4, 0xFF#8), (0x1#4, 0x80#8)]
    (s.params.shiftSource = .x ∧ s.params.shlVfBit = .bit0 ∧ 0xFF#8 = s.getV 0x0#4) ∧
      ∃ r : State, r.params.shiftSource = .y ∧ r.params.shlVfBit = .bit7 ∧ 0x80#8 = r.getV 0x1#4 :=
  ⟨by decide,
    { withRegs [(0x1#4, 0x80#8)] with
      params := { Params.default with shiftSource := .y, shlVfBit := .bit7 } }, by decide⟩
theorem witness_DrawPixels :
    let s := ready.setIdx 0x0FF1#16
    let none := ready.setIdx 0xFFFF#16
    (15 ≤ 15 ∧ s.idx.toNat + 15 ≤ 4096) ∧ (0 ≤ 15 ∧ ¬ none.idx.toNat + 0 ≤ 4096) ∧
      (ready.mem.read 0).getLsbD 7 = true ∧ (ready.mem.read 0).getLsbD 0 = false := by decide
theorem witness_DrawCollisionFlag :
    let s := withBytes 0x300 [0x80#8, 0x80#8] (ready.setFb (togglePixel clearFb 0))
    2 ≤ 15 ∧ s.idx.toNat + 2 ≤ 4096 ∧
      (true = (drawTargets 0x0#4 0x1#4 2 s).any (pixelAt s.fb)) ∧
      (false = ((drawTargets 0x0#4 0x1#4 2 s).getLast?.map (pixelAt s.fb)).getD false) ∧
      s.params.drawVfPolicy = .unfixed ∧
      ({ s with params := { s.params with drawVfPolicy := .any } }).params.drawVfPolicy = .any ∧
      ({ s with params := { s.params with drawVfPolicy := .last } }).params.drawVfPolicy = .last ∧
      (false = (drawTargets 0x0#4 0x1#4 0 s).any (pixelAt s.fb)) ∧
      false = ((drawTargets 0x0#4 0x1#4 0 s).getLast?.map (pixelAt s.fb)).getD false := by decide
theorem witness_SpritePixelsDistinct :
    14 < 15 ∧ 7 < 8 ∧ pixelIndex 255 255 14 7 = pixelIndex 255 255 14 7 := by decide
theorem witness_DrawTwiceRestores :
    let t := drawEffect (drawResult 0x0#4 0x1#4 15 ready) ready
    let u := drawEffect (drawResult 0x0#4 0x1#4 15 t) t
    1 ≤ 15 ∧ 15 ≤ 15 ∧ ready.idx.toNat + 15 ≤ 4096 ∧ exec (.drw 0x0#4 0x1#4 15) ready = .next t ∧
      t.getV 0x0#4 = ready.getV 0x0#4 ∧ t.getV 0x1#4 = ready.getV 0x1#4 ∧
      exec (.drw 0x0#4 0x1#4 15) t = .next u ∧ drawTargets 0x0#4 0x1#4 15 ready ≠ [] ∧
      ∀ k ∈ drawTargets 0x0#4 0x1#4 15 ready, pixelAt ready.fb k = false :=
  ⟨by decide, by decide, by decide, rfl, rfl, rfl, rfl, by decide,
    fun k _ => pixelAt_clearFb k⟩
theorem witness_KeyTestEffect :
    ((withRegs [(0x5#4, 0x0F#8)]).getV 0x5#4).toNat ≤ 15 ∧
      15 < ((withRegs [(0x5#4, 0x10#8)]).getV 0x5#4).toNat := by decide
theorem witness_KeyWaitEffect : (ready.setLife (.waitingKey 0xF#4)).life = .waitingKey 0xF#4 := by
  decide
theorem witness_BcdEffect : (ready.setIdx 0x0FFD#16).idx.toNat + 3 ≤ 4096 := by decide
theorem witness_StoreRegistersEffect_LoadRegistersEffect :
    (ready.setIdx 0x0FF0#16).idx.toNat + (0xF#4 : Reg).toNat + 1 ≤ 4096 ∧
      (ready.setIdx 0x0FFF#16).idx.toNat + (0x0#4 : Reg).toNat + 1 ≤ 4096 := by decide
theorem witness_StoreThenLoadRestores :
    let s := withRegs [(0x0#4, 0xAB#8)]
    let t := (s.store 0 [0xAB#8]).complete 0x202#16
    s.idx.toNat + (0x0#4 : Reg).toNat + 1 ≤ 4096 ∧ exec (.storeRegs 0x0#4) s = .next t ∧
      t.mem = t.mem ∧ t.idx = s.idx := ⟨by decide, rfl, rfl, rfl⟩
theorem witness_DataOutOfBoundsFaults :
    (15 ≠ 0 ∧ 4096 < (ready.setIdx 0x0FF2#16).idx.toNat + 15) ∧
      (3 ≠ 0 ∧ 4096 < (ready.setIdx 0x0FFE#16).idx.toNat + 3) ∧
      (16 = (0xF#4 : Reg).toNat + 1 ∧ 4096 < (ready.setIdx 0x0FF1#16).idx.toNat + 16) ∧
      1 = (0x0#4 : Reg).toNat + 1 ∧ 4096 < (ready.setIdx 0x1000#16).idx.toNat + 1 := by decide
theorem witness_DecrementEffect :
    let s := { ready with phase := .decrement, dt := 1#8 }
    let h := { ready with phase := .decrement, life := .halted }
    (s.life = .ready ∧ s.phase = .decrement) ∧ h.life = .halted ∧ h.phase = .decrement := by decide
theorem witness_FrameEnd :
    let s := { ready with slot := 10, dirty := true }
    s.life = .ready ∧ s.phase = .batch ∧ s.slot = 10 ∧ s.stopRequested = false := by decide
theorem witness_HaltedFrameEnd :
    (ready.setLife .halted).life = .halted ∧ (ready.setLife .halted).phase = .batch := by decide
theorem witness_FaultsArePrecise :
    let f := FaultRecord.stackUnderflow 0x200#16 0x00EE#16
    step (placed 0x00EE) = .next ((placed 0x00EE).raise f) ∧
      ((placed 0x00EE).raise f).life = .faulted f := ⟨rfl, rfl⟩
/-- A Decrement from 1 changes both timers. -/
theorem witness_TimersChangeOnlyBy :
    let s := { ready with phase := .decrement, dt := 1#8, st := 1#8 }
    step s = .next (decrementPhase s) ∧ (decrementPhase s).dt ≠ s.dt ∧
      (decrementPhase s).st ≠ s.st := ⟨rfl, by decide, by decide⟩
/-- CLS changes a lit buffer and sets dirty on a dark one; a DXYN of no rows sets dirty; Push clears
it. -/
theorem witness_DisplayChangesOnlyBy :
    let s := { placed 0x00E0 with fb := togglePixel clearFb 0 }
    let d := (placed 0xD010).setIdx 0xFFFF#16
    let q := { ready with phase := .push, dirty := true }
    (Runs s .cls ∧ ∃ t, step s = .next t ∧ t.fb ≠ s.fb) ∧
      (Runs (placed 0x00E0) .cls ∧ (placed 0x00E0).dirty = false ∧
        ∃ t, step (placed 0x00E0) = .next t ∧ t.dirty = true ∧ t.fb = (placed 0x00E0).fb) ∧
      (Runs d (.drw 0x0#4 0x1#4 0) ∧ InRange d 0 ∧ ∃ t, step d = .next t ∧ t.dirty = true) ∧
      step q = .next (pushPhase q) ∧ q.dirty = true ∧ (pushPhase q).dirty = false :=
  ⟨⟨⟨rfl, rfl, rfl⟩, _, rfl, by decide⟩, ⟨⟨rfl, rfl, rfl⟩, rfl, _, rfl, rfl, rfl⟩,
    ⟨⟨rfl, rfl, rfl⟩, .inr rfl, _, rfl, rfl⟩, rfl, rfl, rfl⟩
/-- FX55 changes a byte of memory. -/
theorem witness_StateChangesOnlyBy :
    let s := (withRegs [(0x0#4, 0xAB#8)]).withFetchWord 16 0xF055
    ∃ t, step s = .next t ∧ t.mem.read 0 ≠ s.mem.read 0 := ⟨_, rfl, by decide⟩
theorem witness_ToneEdges :
    let on := (withRegs [(0x2#4, 2#8)]).withFetchWord 16 0xF218
    let off := { ready with phase := .decrement, st := 1#8 }
    (∃ t, step on = .next t ∧ toneOn on t = true) ∧ step off = .next (decrementPhase off) ∧
      toneOff off (decrementPhase off) = true := ⟨⟨_, rfl, by decide⟩, rfl, by decide⟩
theorem witness_FrameControlAndSkips :
    exec (.seImm 0x3#4 0x42#8) ready = .next (ready.complete 0x202#16) ∧
      ¬ Touches (.seImm 0x3#4 0x42#8) ready (.byte 0x200) :=
  ⟨rfl, by simp [Touches, storeWidth]⟩
theorem witness_FrameArithmetic :
    exec (.ldImm 0x3#4 0x42#8) ready = .next ((ready.setV 0x3#4 0x42#8).complete 0x202#16) ∧
      ¬ Touches (.ldImm 0x3#4 0x42#8) ready (.reg regVF) :=
  ⟨rfl, by simp [Touches, writesReg, regVF]⟩
/-- The pixel after a sprite row is not among its targets. -/
theorem witness_FrameIndexDrawKeys :
    (∃ t, exec (.drw 0x0#4 0x1#4 1) ready = .next t) ∧
      ¬ Touches (.drw 0x0#4 0x1#4 1) ready (.pixel 8) := by
  refine ⟨⟨_, rfl⟩, ?_⟩
  have h : (8 : Pixel) ∉ drawTargets 0x0#4 0x1#4 1 ready := by decide
  simp only [Touches, writesPixel]
  rintro (h1 | ⟨x, y, n, h1, h2⟩)
  · cases h1
  · cases h1
    exact h h2
/-- The byte after the last one FX55 stores is not touched. -/
theorem witness_FrameMisc :
    (∃ t, exec (.storeRegs 0x2#4) ready = .next t) ∧
      ¬ Touches (.storeRegs 0x2#4) ready (.byte 3) := by
  refine ⟨⟨_, rfl⟩, ?_⟩
  simp only [Touches, storeWidth]
  decide
theorem witness_LoadEffect :
    State.reset.life = .unloaded ∧ (List.replicate 3584 0#8).length ≤ 3584 ∧
      3584 < (List.replicate 3585 0#8).length ∧ ready.life ≠ .unloaded :=
  ⟨by decide, by rw [List.length_replicate], by rw [List.length_replicate]; decide, by decide⟩
theorem witness_LaunchMeetsInvariant_StepKeepsInvariant :
    ready.Inv ∧ ∃ t, step ready = .next t :=
  ⟨{ memory := rfl
     pc := by decide
     stack := ⟨by simp [ready, State.reset], by simp [ready, State.reset]⟩
     scheduler := by simp [SchedulerOk, ready, State.reset] }, ⟨_, rfl⟩⟩
/-- The image 60 05 loads on any launch and its one instruction runs. -/
theorem witness_LoadedRunsMeetInvariant (l : Launch) : ∃ s t,
    load (some [0x60#8, 0x05#8]) (State.construct l) = (.success, s) ∧
      Sys2Proof.core.run 1 s = .next t := by
  let s : State := { State.construct l with
    mem := (State.construct l).mem.writeList loadBase [0x60#8, 0x05#8], life := .ready }
  have hf : fetch s = .ok (.ldImm 0x0#4 0x05#8) := by
    have hp : s.pc = 0x200#16 := rfl
    have h0 : s.mem.read s.pc.toNat = 0x60#8 := by
      rw [Memory.read_writeList, hp, if_pos (by decide)]
      decide
    have h1 : s.mem.read (s.pc.toNat + 1) = 0x05#8 := by
      rw [Memory.read_writeList, hp, if_pos (by decide)]
      decide
    rw [fetch_inside (by rw [hp]; decide), h0, h1]
    rfl
  have hs : Sys2Proof.core.step s = .next ((s.setV 0x0#4 0x05#8).complete s.seqPc) := by
    show runInstr s = _
    rw [runInstr, hf]
    rfl
  refine ⟨s, (s.setV 0x0#4 0x05#8).complete s.seqPc, rfl, ?_⟩
  simp only [Host.Core.run, hs]

end Sys2Proof.Tests
end

/-! Construction with the default launch (10_state.md R120, 70_reset_and_hazards.md R800).  Memory lists
only the bytes that differ from `unlisted`, so writing the default FONT and the zero INIT_MEM into the
empty memory lists nothing. -/

namespace Sys2Proof.Machine

/-- Past the font an unlisted address reads as zero (log 4). -/
theorem unlisted_past_font {a : Nat} (h : initMemBase ≤ a) : unlisted a = 0#8 :=
  List.getD_eq_default fontBytes 0#8 h

/-- The empty memory stays empty under a write of what the address already reads as. -/
@[simp] theorem Memory.write_nil_unlisted (a : Nat) : Memory.write [] a (unlisted a) = [] :=
  if_pos rfl

/-- The empty memory stays empty under a write of bytes that the addresses already read as. -/
theorem Memory.writeList_nil_unlisted {a : Nat} {bytes : List Byte}
    (h : ∀ k (hk : k < bytes.length), bytes[k] = unlisted (a + k)) :
    Memory.writeList [] a bytes = [] := by
  induction bytes generalizing a with
  | nil => rfl
  | cons b rest ih =>
    obtain rfl : b = unlisted a := h 0 (by simp)
    have hrest : ∀ k (hk : k < rest.length), rest[k] = unlisted (a + 1 + k) := fun k hk =>
      (h (k + 1) (Nat.succ_lt_succ hk)).trans (congrArg unlisted (by omega))
    rw [Memory.writeList, Memory.write_nil_unlisted]
    exact ih hrest

/-- R205: the default FONT is what 0x000 to 0x04F read as unlisted (log 5). -/
theorem Launch.default_font_writeList :
    Memory.writeList [] 0 Launch.default.font.toList = [] :=
  Memory.writeList_nil_unlisted fun k _ => by simp [Launch.default]

/-- The zero INIT_MEM is what 0x050 to 0xFFF read as unlisted (log 4). -/
theorem Launch.default_initMem_writeList :
    Memory.writeList [] initMemBase Launch.default.initMem.toList = [] :=
  Memory.writeList_nil_unlisted fun k _ => by
    rw [unlisted_past_font (Nat.le_add_right _ k), Vector.getElem_toList]
    exact Vector.getElem_replicate _

/-- Settles O55: the memory is the one field of the construction that is computed, and with the default
FONT and a zero INIT_MEM it lists nothing; every other field is State.reset's own. -/
theorem resetIsDefaultConstruction : Obligations.ResetIsDefaultConstruction := by
  unfold Obligations.ResetIsDefaultConstruction
  rw [State.construct, Launch.default_font_writeList, Launch.default_initMem_writeList]
  rfl

end Sys2Proof.Machine

/-! What each instruction leaves of each part of the state, and the frames of the instructions
(10_state.md R102, R103, R109, R111 to R114; 20_memory.md R207).  `effect_same` says it of the effect,
`exec_keepsFrame` of the instruction; later proofs cite these two. -/

namespace Sys2Proof.Machine

/-! ## The effect field by field -/

section EffectFields

variable {i : Instr} {s : State}

/-- FX65 changes registers besides PC and slot (48_misc.md R592). -/
theorem effect_loadRegs (x : Reg) (s : State) :
    effect (.loadRegs x) s =
      { s.complete s.seqPc with v := (loadLoop s.mem s.dataBase (x.toNat + 1) s).v } := by
  rw [effect, loadLoop_eq]
  rfl

@[simp] theorem effect_phase (i : Instr) (s : State) : (effect i s).phase = s.phase := by
  cases i
  case loadRegs x => rw [effect_loadRegs]; rfl
  all_goals rfl

@[simp] theorem effect_stopRequested (i : Instr) (s : State) :
    (effect i s).stopRequested = s.stopRequested := by
  cases i
  case loadRegs x => rw [effect_loadRegs]; rfl
  all_goals rfl

@[simp] theorem effect_params (i : Instr) (s : State) : (effect i s).params = s.params := by
  cases i
  case loadRegs x => rw [effect_loadRegs]; rfl
  all_goals rfl

@[simp] theorem effect_frameOut (i : Instr) (s : State) :
    (effect i s).frameOut = s.frameOut := by
  cases i
  case loadRegs x => rw [effect_loadRegs]; rfl
  all_goals rfl

theorem effect_idx (h : ¬ Touches i s .idx) : (effect i s).idx = s.idx := by
  cases i
  case ldI nnn => exact (h (.inl ⟨nnn, rfl⟩)).elim
  case addI x => exact (h (.inr ⟨x, .inl rfl⟩)).elim
  case ldF x => exact (h (.inr ⟨x, .inr rfl⟩)).elim
  case loadRegs x => rw [effect_loadRegs]; rfl
  all_goals rfl

theorem effect_dt (h : ¬ Touches i s .dt) : (effect i s).dt = s.dt := by
  cases i
  case ldDtVx x => exact (h ⟨x, rfl⟩).elim
  case loadRegs x => rw [effect_loadRegs]; rfl
  all_goals rfl

theorem effect_st (h : ¬ Touches i s .st) : (effect i s).st = s.st := by
  cases i
  case ldStVx x => exact (h ⟨x, rfl⟩).elim
  case loadRegs x => rw [effect_loadRegs]; rfl
  all_goals rfl

theorem effect_stack (h : ¬ Touches i s .stack) : (effect i s).stack = s.stack := by
  cases i
  case ret => exact (h (.inl rfl)).elim
  case call nnn => exact (h (.inr ⟨nnn, rfl⟩)).elim
  case loadRegs x => rw [effect_loadRegs]; rfl
  all_goals rfl

/-- Only CLS and DXYN, the instructions that touch `dirty`, write the buffer (46_draw.md R527). -/
theorem effect_fb_dirty (h : ¬ Touches i s .dirty) :
    (effect i s).fb = s.fb ∧ (effect i s).dirty = s.dirty := by
  cases i
  case cls => exact (h (.inl rfl)).elim
  case drw x y n => exact (h (.inr ⟨x, y, n, rfl⟩)).elim
  case loadRegs x => rw [effect_loadRegs]; exact ⟨rfl, rfl⟩
  all_goals exact ⟨rfl, rfl⟩

/-- CLS and DXYN set `dirty` unconditionally (decision D39 of the spec). -/
theorem effect_dirty (h : Touches i s .dirty) : (effect i s).dirty = true := by
  obtain rfl | ⟨x, y, n, rfl⟩ := h <;> rfl

theorem effect_life (hh : i ≠ .halt) (hk : ∀ x, i ≠ .ldVxK x) : (effect i s).life = s.life := by
  cases i
  case halt => exact (hh rfl).elim
  case ldVxK x => exact (hk x rfl).elim
  case loadRegs x => rw [effect_loadRegs]; rfl
  all_goals rfl

/-- Every instruction but FX0A completes in its own step (30_encoding.md R300, 48_misc.md R583). -/
theorem effect_slot (hk : ∀ x, i ≠ .ldVxK x) : (effect i s).slot = s.slot + 1 := by
  cases i
  case ldVxK x => exact (hk x rfl).elim
  case loadRegs x => rw [effect_loadRegs]; rfl
  all_goals rfl

theorem effect_drawn (h : ¬ Touches i s .drawn) : (effect i s).drawn = s.drawn := by
  cases i
  case rnd x nn => exact (h (.inl ⟨x, nn, rfl⟩)).elim
  case skp x => exact (h (.inr (.inl ⟨x, .inl rfl⟩))).elim
  case sknp x => exact (h (.inr (.inl ⟨x, .inr rfl⟩))).elim
  case drw x y n => exact (h (.inr (.inr ⟨x, y, n, rfl⟩))).elim
  case loadRegs x => rw [effect_loadRegs]; rfl
  all_goals rfl

/-! ### Registers, bytes and pixels -/

/-- An instruction writes its destination and its flag register only (10_state.md R102). -/
theorem effect_getV {r : Reg} (h : ¬ writesReg i r) : (effect i s).getV r = s.getV r := by
  cases i
  case ldImm x _ | addImm x _ | rnd x _ | ldReg x _ | orReg x _ | andReg x _ | xorReg x _ | ldVxDt x =>
    exact (State.getV_setV _ x r _).trans (if_neg h)
  case addReg x _ | subReg x _ | shr x _ | subnReg x _ | shl x _ =>
    obtain ⟨hx, hf⟩ := not_or.1 h
    simp [effect, hx, hf]
  case drw x y n => exact (drawEffect_getV _ s r).trans (if_neg h)
  case loadRegs x =>
    have hx : ¬ r.toNat < x.toNat + 1 := fun hlt => h (Nat.le_of_lt_succ hlt)
    exact (loadLoop_getV _ _ _ s r x.isLt).trans (if_neg hx)
  all_goals rfl

/-- An instruction stores its `storeWidth` bytes from I, and no others (20_memory.md R207). -/
theorem effect_mem (i : Instr) (s : State) :
    ∃ bytes : List Byte, bytes.length = storeWidth i ∧
      (effect i s).mem = s.mem.writeList s.dataBase bytes := by
  cases i
  case ldB x => exact ⟨bcdDigits (s.getV x), rfl, rfl⟩
  case storeRegs x => exact ⟨firstRegs s (x.toNat + 1), firstRegs_length s _, rfl⟩
  case loadRegs x => exact ⟨[], rfl, by rw [effect_loadRegs]; rfl⟩
  all_goals exact ⟨[], rfl, rfl⟩

theorem effect_mem_read {a : Nat} (h : ¬ Touches i s (.byte a)) :
    (effect i s).mem.read a = s.mem.read a := by
  obtain ⟨bytes, hlen, hmem⟩ := effect_mem i s
  rw [hmem, Memory.read_writeList, hlen]
  exact if_neg h

/-- CLS may change every pixel, DXYN its targets, no other instruction any (46_draw.md R527). -/
theorem effect_pixelAt {k : Pixel} (h : ¬ Touches i s (.pixel k)) :
    pixelAt (effect i s).fb k = pixelAt s.fb k := by
  obtain ⟨hcls, hdrw⟩ := not_or.1 h
  by_cases hd : Touches i s .dirty
  · obtain rfl | ⟨x, y, n, rfl⟩ := hd
    · exact (hcls rfl).elim
    · have hk : k ∉ drawTargets x y n s := fun hm => hdrw ⟨x, y, n, rfl, hm⟩
      rw [effect, drawEffect_fb, drawResult, drawSprite_eq_foldl]
      exact foldl_drawHit_pixelAt_of_notMem _ _ k hk
  · rw [(effect_fb_dirty hd).1]

end EffectFields

/-! ## Frames -/

/-- The effect of an instruction leaves every part it does not touch. -/
theorem effect_same {i : Instr} {s : State} {p : Part} (h : ¬ Touches i s p) :
    Part.Same s (effect i s) p := by
  cases p with
  | reg r => exact effect_getV h
  | idx => exact effect_idx h
  | dt => exact effect_dt h
  | st => exact effect_st h
  | stack => exact effect_stack h
  | byte a => exact effect_mem_read h
  | pixel k => exact effect_pixelAt h
  | dirty => exact (effect_fb_dirty h).2
  | life => exact effect_life (fun e => h (.inl e)) fun x e => h (.inr (.inl ⟨x, e⟩))
  | slot =>
    obtain ⟨x, hx⟩ := not_forall_not.1 h
    subst hx
    rfl
  | phase => exact effect_phase i s
  | stopRequested => exact effect_stopRequested i s
  | params => exact effect_params i s
  | drawn => exact effect_drawn h
  | frameOut => exact effect_frameOut i s

/-- A fault leaves every part but `life` (60_exceptions.md R702). -/
theorem State.raise_same (s : State) (f : FaultRecord) {p : Part} (h : p ≠ .life) :
    Part.Same s (s.raise f) p := by
  cases p
  case life => exact (h rfl).elim
  all_goals rfl

/-- Every instruction keeps its frame, whether it faults or has its effect. -/
theorem exec_keepsFrame (i : Instr) : KeepsFrame i := by
  intro s t h p hp
  obtain ⟨hf, f, rfl⟩ | ⟨-, rfl⟩ := exec_next h
  · refine s.raise_same f ?_
    rintro rfl
    exact hp (.inr (.inr hf))
  · exact effect_same hp

/-- Settles O50: the frame that every instruction keeps, at these. -/
theorem frameControlAndSkips : Obligations.FrameControlAndSkips :=
  ⟨exec_keepsFrame _, exec_keepsFrame _, exec_keepsFrame _, fun _ => exec_keepsFrame _,
    fun _ => exec_keepsFrame _, fun _ _ => exec_keepsFrame _, fun _ _ => exec_keepsFrame _,
    fun _ _ => exec_keepsFrame _, fun _ _ => exec_keepsFrame _⟩

/-- Settles O51: the frame that every instruction keeps, at these. -/
theorem frameArithmetic : Obligations.FrameArithmetic :=
  ⟨fun _ _ => exec_keepsFrame _, fun _ _ => exec_keepsFrame _, fun _ _ => exec_keepsFrame _,
    fun _ _ => exec_keepsFrame _, fun _ _ => exec_keepsFrame _, fun _ _ => exec_keepsFrame _,
    fun _ _ => exec_keepsFrame _, fun _ _ => exec_keepsFrame _, fun _ _ => exec_keepsFrame _,
    fun _ _ => exec_keepsFrame _, fun _ _ => exec_keepsFrame _⟩

/-- Settles O52: the frame that every instruction keeps, at these. -/
theorem frameIndexDrawKeys : Obligations.FrameIndexDrawKeys :=
  ⟨fun _ => exec_keepsFrame _, fun _ => exec_keepsFrame _, fun _ _ => exec_keepsFrame _,
    fun _ _ _ => exec_keepsFrame _, fun _ => exec_keepsFrame _, fun _ => exec_keepsFrame _⟩

/-- Settles O53: the frame that every instruction keeps, at these. -/
theorem frameMisc : Obligations.FrameMisc :=
  ⟨fun _ => exec_keepsFrame _, fun _ => exec_keepsFrame _, fun _ => exec_keepsFrame _,
    fun _ => exec_keepsFrame _, fun _ => exec_keepsFrame _, fun _ => exec_keepsFrame _,
    fun _ => exec_keepsFrame _, fun _ => exec_keepsFrame _, fun _ => exec_keepsFrame _⟩

/-- Settles O13: the cleared buffer is the one CLS writes. -/
theorem clearDisplayEffect : Obligations.ClearDisplayEffect := fun _ =>
  ⟨clearFb, pixelAt_clearFb, rfl⟩

end Sys2Proof.Machine

/-! What a step can change (10_state.md R103, R109, R111 to R113; 60_exceptions.md R721, R723). -/

namespace Sys2Proof.Machine

/-! ## Steps -/

/-- A step either runs an instruction, or takes the fault of a fetch, or is the scheduler's, or looks
at the key wait. -/
theorem step_runs_or {s t : State} (h : step s = .next t) :
    (∃ i, Runs s i ∧ exec i s = .next t) ∨ (∃ f, t = s.raise f) ∨ schedule s = .next t ∨
      ∃ x, t = keyWait x s := by
  obtain ⟨hl, hb, ⟨i, hf, he⟩ | ⟨f, -, ht⟩⟩ | ⟨-, -, hs⟩ | ⟨x, -, ht⟩ | ⟨-, hs⟩ := step_cases h
  · exact .inl ⟨i, ⟨hl, hb, hf⟩, he⟩
  · exact .inr (.inl ⟨f, ht⟩)
  · exact .inr (.inr (.inl hs))
  · exact .inr (.inr (.inr ⟨x, ht⟩))
  · exact .inr (.inr (.inl hs))

/-- A step that runs an instruction is the instruction's meaning (30_encoding.md R300). -/
theorem step_of_runs {s : State} {i : Instr} (h : Runs s i) : step s = exec i s := by
  obtain ⟨hl, hb, hf⟩ := h
  simp only [step, hl, hb, if_true, runInstr, hf]

/-- An open batch is in phase Batch with a slot left. -/
theorem batchOpen_iff {s : State} : batchOpen s = true ↔ s.phase = .batch ∧ s.slot < batch := by
  simp [batchOpen]

/-- Push sends the buffer if it is dirty, and leaves it clean (60_exceptions.md R721). -/
theorem pushPhase_eq (s : State) :
    pushPhase s =
      { s with
        frameOut := if s.dirty then some s.fb else s.frameOut, dirty := false, phase := .poll } := by
  unfold pushPhase
  split
  · rfl
  · next hd => rw [← Bool.eq_false_of_not_eq_true hd]

/-- All a scheduler step can do, the ends of Sleep apart (60_exceptions.md R720, R725). -/
theorem schedule_updates {s t : State} (h : schedule s = .next t) :
    (s.phase = .batch ∧ t = endBatch s) ∨
      (s.phase = .push ∧ t = { s with
        frameOut := if s.dirty then some s.fb else s.frameOut, dirty := false, phase := .poll }) ∨
      (s.phase = .poll ∧ t = pollPhase s) ∨ (s.phase = .decrement ∧ t = decrementPhase s) ∨
      (s.phase = .sleep ∧ s.life ≠ .halted ∧ s.stopRequested = true ∧ t = s.setLife .stopped) ∨
      (s.phase = .sleep ∧ s.life ≠ .halted ∧ s.stopRequested = false ∧ t = nextFrame s) := by
  obtain hb | ⟨hp, rfl⟩ | hp | hd | ⟨hp, hs⟩ := schedule_cases h
  · exact .inl hb
  · exact .inr (.inl ⟨hp, pushPhase_eq s⟩)
  · exact .inr (.inr (.inl hp))
  · exact .inr (.inr (.inr (.inl hd)))
  · obtain ⟨hl, hstop | hnext⟩ := sleepPhase_cases hs
    · exact .inr (.inr (.inr (.inr (.inl ⟨hp, hl, hstop⟩))))
    · exact .inr (.inr (.inr (.inr (.inr ⟨hp, hl, hnext⟩))))

/-! ## The parts that only an instruction changes -/

/-- I, the stack, memory, the buffer and the parameters are as before: nothing but an instruction
changes them. -/
structure KeepsData (s t : State) : Prop where
  idx : t.idx = s.idx
  stack : t.stack = s.stack
  mem : t.mem = s.mem
  fb : t.fb = s.fb
  params : t.params = s.params

theorem State.raise_keepsData (s : State) (f : FaultRecord) : KeepsData s (s.raise f) :=
  ⟨rfl, rfl, rfl, rfl, rfl⟩

theorem schedule_keepsData {s t : State} (h : schedule s = .next t) : KeepsData s t := by
  obtain ⟨-, rfl⟩ | ⟨-, rfl⟩ | ⟨-, rfl⟩ | ⟨-, rfl⟩ | ⟨-, -, -, rfl⟩ | ⟨-, -, -, rfl⟩ :=
    schedule_updates h
  all_goals exact ⟨rfl, rfl, rfl, rfl, rfl⟩

theorem keyWait_keepsData (x : Reg) (s : State) : KeepsData s (keyWait x s) := by
  obtain e | ⟨k, e⟩ := keyWait_cases x s <;> rw [e] <;> exact ⟨rfl, rfl, rfl, rfl, rfl⟩

/-- A step runs an instruction or keeps the data. -/
theorem step_runs_or_keepsData {s t : State} (h : step s = .next t) :
    (∃ i, Runs s i ∧ exec i s = .next t) ∨ KeepsData s t := by
  obtain hr | ⟨f, rfl⟩ | hs | ⟨x, rfl⟩ := step_runs_or h
  · exact .inl hr
  · exact .inr (s.raise_keepsData f)
  · exact .inr (schedule_keepsData hs)
  · exact .inr (keyWait_keepsData x s)

/-! ## I, the stack and memory -/

/-- RET removes the top of the stack, or faults and leaves it (41_control.md R402). -/
theorem exec_ret_stack {s t : State} (h : exec .ret s = .next t) :
    t.stack = s.stack ∨ ∃ r, s.stack = r :: t.stack := by
  obtain ⟨-, f, rfl⟩ | ⟨hf, rfl⟩ := exec_next h
  · exact .inl rfl
  · obtain ⟨r, rest, hs⟩ := List.exists_cons_of_ne_nil fun e => hf (.inl ⟨rfl, e⟩)
    exact .inr ⟨r, by simp [effect, hs]⟩

/-- CALL pushes its own address, or faults and leaves the stack (41_control.md R404). -/
theorem exec_call_stack {s t : State} {nnn : Addr} (h : exec (.call nnn) s = .next t) :
    t.stack = s.stack ∨ t.stack = s.pc :: s.stack := by
  obtain ⟨-, f, rfl⟩ | ⟨-, rfl⟩ := exec_next h
  · exact .inl rfl
  · exact .inr rfl

/-- An instruction that raises no fault of its own stores below 4096 (20_memory.md R203). -/
theorem inRange_storeWidth {i : Instr} {s : State} (h : ¬ FaultsIn i s) :
    InRange s (storeWidth i) := by
  cases i
  case ldB x => simpa [FaultsIn, storeWidth] using h
  case storeRegs x => simpa [FaultsIn, storeWidth] using h
  all_goals exact .inr rfl

/-- A byte an instruction changes is one of its data addresses, below 4096 (20_memory.md R207). -/
theorem exec_mem_read {i : Instr} {s t : State} (h : exec i s = .next t) (a : Nat) :
    t.mem.read a = s.mem.read a ∨ (Touches i s (.byte a) ∧ a < memSize) := by
  obtain ⟨-, f, rfl⟩ | ⟨hf, rfl⟩ := exec_next h
  · exact .inl rfl
  · by_cases ha : Touches i s (.byte a)
    · obtain ⟨hlo, hhi⟩ := ha
      have hin : s.dataBase + storeWidth i ≤ memSize ∨ storeWidth i = 0 := inRange_storeWidth hf
      exact .inr ⟨⟨hlo, hhi⟩, by omega⟩
    · exact .inl (effect_mem_read ha)

/-- Settles O48: only an instruction changes I, the stack and memory, and each of the three only by an
instruction that touches it. -/
theorem stateChangesOnlyBy : Obligations.StateChangesOnlyBy := by
  intro s t h
  obtain ⟨i, ⟨-, -, hf⟩, he⟩ | hk := step_runs_or_keepsData h
  · refine ⟨?_, ?_, fun a => ?_⟩
    · by_cases hi : Touches i s .idx
      · obtain ⟨nnn, rfl⟩ | ⟨x, rfl | rfl⟩ := hi
        · exact .inr (.inl ⟨nnn, hf⟩)
        · exact .inr (.inr ⟨x, .inl hf⟩)
        · exact .inr (.inr ⟨x, .inr hf⟩)
      · exact .inl (exec_keepsFrame i s t he .idx hi)
    · by_cases hi : Touches i s .stack
      · obtain rfl | ⟨nnn, rfl⟩ := hi
        · exact (exec_ret_stack he).imp_right fun hr => .inr ⟨hf, hr⟩
        · exact (exec_call_stack he).imp_right fun hp => .inl ⟨⟨nnn, hf⟩, hp⟩
      · exact .inl (exec_keepsFrame i s t he .stack hi)
    · exact (exec_mem_read he a).imp_right fun ⟨⟨hlo, hhi⟩, ha⟩ => ⟨i, hf, hlo, hhi, ha⟩
  · exact ⟨.inl hk.idx, .inl hk.stack, fun a => .inl (by rw [hk.mem])⟩

/-! ## The timers -/

/-- A timer's decrement is subtraction floored at 0 (60_exceptions.md R723). -/
theorem decTimer_toNat (b : Byte) : (decTimer b).toNat = b.toNat - 1 := by
  unfold decTimer
  split
  · next h => rw [h]; rfl
  · bv_omega

/-- The scheduler changes the timers in Decrement only. -/
theorem schedule_timers {s t : State} (h : schedule s = .next t) :
    (t.dt = s.dt ∧ t.st = s.st) ∨ (s.phase = .decrement ∧ t = decrementPhase s) := by
  obtain ⟨-, rfl⟩ | ⟨-, rfl⟩ | ⟨-, rfl⟩ | hd | ⟨-, -, -, rfl⟩ | ⟨-, -, -, rfl⟩ :=
    schedule_updates h
  case inr.inr.inr.inl => exact .inr hd
  all_goals exact .inl ⟨rfl, rfl⟩

/-- A step that does not run an instruction changes the timers by Decrement only. -/
theorem step_runs_or_timers {s t : State} (h : step s = .next t) :
    (∃ i, Runs s i ∧ exec i s = .next t) ∨ (t.dt = s.dt ∧ t.st = s.st) ∨
      (s.phase = .decrement ∧ t = decrementPhase s) := by
  obtain hr | ⟨f, rfl⟩ | hs | ⟨x, rfl⟩ := step_runs_or h
  · exact .inl hr
  · exact .inr (.inl ⟨rfl, rfl⟩)
  · exact .inr (schedule_timers hs)
  · obtain e | ⟨k, e⟩ := keyWait_cases x s <;> rw [e] <;> exact .inr (.inl ⟨rfl, rfl⟩)

/-- While the machine is Ready or Halted, a step in phase Decrement is the scheduler's. -/
theorem step_decrement {s : State} (hl : s.life = .ready ∨ s.life = .halted)
    (hp : s.phase = .decrement) : step s = .next (decrementPhase s) := by
  have hb : batchOpen s = false := by simp [batchOpen, hp]
  obtain hl | hl := hl <;> simp [step, hl, hb, schedule, hp]

/-- Settles O46: of the instructions only FX15 touches DT and only FX18 touches ST; of the other steps
only Decrement changes a timer. -/
theorem timersChangeOnlyBy : Obligations.TimersChangeOnlyBy := by
  refine ⟨fun l => ⟨rfl, rfl⟩, fun x s => ⟨⟨_, rfl, rfl⟩, ⟨_, rfl, rfl⟩, _, rfl, ?_⟩, ?_, ?_⟩
  · simp
  · intro s t h hp hl
    rw [step_decrement hl hp] at h
    injection h with h
    subst h
    exact ⟨decTimer_toNat s.dt, decTimer_toNat s.st, rfl⟩
  · intro s t h
    obtain ⟨i, ⟨-, -, hf⟩, he⟩ | ⟨hdt, hst⟩ | ⟨hp, rfl⟩ := step_runs_or_timers h
    · constructor
      · by_cases hi : Touches i s .dt
        · obtain ⟨x, rfl⟩ := hi
          injection he with he
          exact .inr (.inl ⟨x, hf, by rw [← he]; rfl⟩)
        · exact .inl (exec_keepsFrame i s t he .dt hi)
      · by_cases hi : Touches i s .st
        · obtain ⟨x, rfl⟩ := hi
          injection he with he
          exact .inr (.inl ⟨x, hf, by rw [← he]; rfl⟩)
        · exact .inl (exec_keepsFrame i s t he .st hi)
    · exact ⟨.inl hdt, .inl hst⟩
    · exact ⟨.inr (.inr ⟨hp, decTimer_toNat s.dt⟩), .inr (.inr ⟨hp, decTimer_toNat s.st⟩)⟩

/-! ## The display -/

/-- The buffer, its dirty flag and the frame sent are as before. -/
def KeepsDisplay (s t : State) : Prop :=
  t.fb = s.fb ∧ t.dirty = s.dirty ∧ t.frameOut = s.frameOut

/-- An instruction keeps the display, or is CLS or DXYN and sets `dirty` (46_draw.md R527). -/
theorem exec_display {i : Instr} {s t : State} (h : exec i s = .next t) :
    KeepsDisplay s t ∨ (Touches i s .dirty ∧ t.dirty = true ∧ t.frameOut = s.frameOut) := by
  obtain ⟨-, f, rfl⟩ | ⟨-, rfl⟩ := exec_next h
  · exact .inl ⟨rfl, rfl, rfl⟩
  · by_cases hi : Touches i s .dirty
    · exact .inr ⟨hi, effect_dirty hi, effect_frameOut i s⟩
    · obtain ⟨hfb, hdirty⟩ := effect_fb_dirty hi
      exact .inl ⟨hfb, hdirty, effect_frameOut i s⟩

/-- The scheduler keeps the display, or sends a dirty buffer in Push (60_exceptions.md R721). -/
theorem schedule_display {s t : State} (h : schedule s = .next t) :
    KeepsDisplay s t ∨
      (s.phase = .push ∧ s.dirty = true ∧ t.fb = s.fb ∧ t.frameOut = some s.fb) := by
  obtain ⟨-, rfl⟩ | ⟨hp, rfl⟩ | ⟨-, rfl⟩ | ⟨-, rfl⟩ | ⟨-, -, -, rfl⟩ | ⟨-, -, -, rfl⟩ :=
    schedule_updates h
  case inr.inl =>
    cases hd : s.dirty with
    | true => exact .inr ⟨hp, rfl, rfl, rfl⟩
    | false => exact .inl ⟨rfl, hd.symm, rfl⟩
  all_goals exact .inl ⟨rfl, rfl, rfl⟩

/-- All a step can do to the display. -/
theorem step_display {s t : State} (h : step s = .next t) :
    KeepsDisplay s t ∨
      ((Runs s .cls ∨ ∃ x y n, Runs s (.drw x y n)) ∧ t.dirty = true ∧ t.frameOut = s.frameOut) ∨
      (s.phase = .push ∧ s.dirty = true ∧ t.fb = s.fb ∧ t.frameOut = some s.fb) := by
  obtain ⟨i, hr, he⟩ | ⟨f, rfl⟩ | hs | ⟨x, rfl⟩ := step_runs_or h
  · obtain hk | ⟨rfl | ⟨x, y, n, rfl⟩, hd⟩ := exec_display he
    · exact .inl hk
    · exact .inr (.inl ⟨.inl hr, hd⟩)
    · exact .inr (.inl ⟨.inr ⟨x, y, n, hr⟩, hd⟩)
  · exact .inl ⟨rfl, rfl, rfl⟩
  · exact (schedule_display hs).imp_right .inr
  · obtain e | ⟨k, e⟩ := keyWait_cases x s <;> rw [e] <;> exact .inl ⟨rfl, rfl, rfl⟩

/-- A step that runs CLS or DXYN and raises no fault sets `dirty` (decision D39 of the spec). -/
theorem step_dirty_of_runs {i : Instr} {s t : State} (h : step s = .next t) (hr : Runs s i)
    (hi : Touches i s .dirty) (hf : ¬ FaultsIn i s) : t.dirty = true := by
  rw [step_of_runs hr] at h
  obtain ⟨hfault, -⟩ | ⟨-, rfl⟩ := exec_next h
  · exact (hf hfault).elim
  · exact effect_dirty hi

/-- Settles O47: each clause follows from the three things a step can do to the display, and from D39
for the two that say `dirty` is always set. -/
theorem displayChangesOnlyBy : Obligations.DisplayChangesOnlyBy := by
  intro s t h
  have hcls : Runs s .cls → t.dirty = true := fun hr =>
    step_dirty_of_runs h hr (.inl rfl) (by simp [FaultsIn])
  have hdrw : ∀ x y n, Runs s (.drw x y n) → InRange s n → t.dirty = true := fun x y n hr hin =>
    step_dirty_of_runs h hr (.inr ⟨x, y, n, rfl⟩) (by simpa [FaultsIn] using hin)
  obtain ⟨hfb, hd, hout⟩ | ⟨hr, hd, hout⟩ | ⟨hp, hd, hfb, hout⟩ := step_display h
  · exact ⟨.inl hfb, fun h0 h1 => by simp [hd, h0] at h1, hcls, hdrw, fun hne => (hne hfb).elim,
      .inl hout, fun h1 h0 => by simp [hd, h1] at h0⟩
  · exact ⟨.inr hr, fun _ _ => hr, hcls, hdrw, fun _ => hd, .inl hout,
      fun _ h0 => by simp [hd] at h0⟩
  · exact ⟨.inl hfb, fun h0 _ => by simp [hd] at h0, hcls, hdrw, fun hne => (hne hfb).elim,
      .inr ⟨hp, hd, hout, hfb⟩, fun _ _ => ⟨hp, hout⟩⟩

end Sys2Proof.Machine

/-! Every step keeps the invariant, and so does every run of a loaded image (10_state.md R107, R111;
20_memory.md R203; 60_exceptions.md R720; 70_reset_and_hazards.md R801). -/

namespace Sys2Proof.Machine

/-! ## The scheduler's clause by lifecycle state -/

section SchedulerOk

variable {s : State}

theorem schedulerOk_unloaded (hl : s.life = .unloaded) :
    SchedulerOk s ↔ s.phase = .batch ∧ s.slot = 0 ∧ s.stopRequested = false := by
  rw [SchedulerOk, hl]

theorem schedulerOk_ready (hl : s.life = .ready) :
    SchedulerOk s ↔ s.slot ≤ batch ∧ (s.phase ≠ .batch → s.slot = batch) ∧
      (s.stopRequested = true → s.phase = .decrement ∨ s.phase = .sleep) := by
  rw [SchedulerOk, hl]

theorem schedulerOk_waitingKey {x : Reg} (hl : s.life = .waitingKey x) :
    SchedulerOk s ↔ s.phase = .batch ∧ s.slot < batch ∧ s.stopRequested = false ∧
      s.pc.toNat ≤ lastFetch := by
  rw [SchedulerOk, hl]
  rfl

theorem schedulerOk_halted (hl : s.life = .halted) :
    SchedulerOk s ↔ 0 < s.slot ∧ s.slot ≤ batch := by
  rw [SchedulerOk, hl]

/-- In an open batch no shutdown request is pending (60_exceptions.md R722, R725). -/
theorem stopRequested_of_batchOpen (h : SchedulerOk s) (hl : s.life = .ready)
    (hb : batchOpen s = true) : s.stopRequested = false := by
  obtain ⟨hp, -⟩ := batchOpen_iff.1 hb
  obtain ⟨-, -, hstop⟩ := (schedulerOk_ready hl).1 h
  simpa [hp] using hstop

/-- When a Ready machine's batch is not open, its slots are used up. -/
theorem slot_of_batch_closed (h : SchedulerOk s) (hl : s.life = .ready)
    (hb : batchOpen s = false) : s.slot = batch := by
  obtain ⟨hle, hslot, -⟩ := (schedulerOk_ready hl).1 h
  by_cases hp : s.phase = .batch
  · have hnot : ¬ s.slot < batch := fun hlt => by simp [batchOpen_iff.2 ⟨hp, hlt⟩] at hb
    omega
  · exact hslot hp

end SchedulerOk

/-! ## The next PC (10_state.md R106, R107) -/

/-- An instruction is fetched at 0x0FFE at most (20_memory.md R203). -/
theorem pc_le_of_fetch {s : State} {i : Instr} (h : fetch s = .ok i) : s.pc.toNat ≤ lastFetch := by
  by_contra hpc
  rw [fetch_outside (Nat.lt_of_not_le hpc)] at h
  cases h

theorem zext16_toNat (nnn : Addr) : (zext16 nnn).toNat = nnn.toNat :=
  BitVec.toNat_setWidth_of_le (by decide)

/-- The two bytes after an address an instruction can be fetched from. -/
theorem add_two_toNat_le {a : Word} (h : a.toNat ≤ lastFetch) : (a + 2#16).toNat ≤ 0x1000 := by
  unfold lastFetch at h
  bv_omega

theorem State.seqPc_toNat_le {s : State} (h : s.pc.toNat ≤ lastFetch) :
    s.seqPc.toNat ≤ 0x10FE :=
  (add_two_toNat_le h).trans (by decide)

theorem skip_toNat_le {s : State} (h : s.pc.toNat ≤ lastFetch) (c : Bool) :
    (if c then s.skipPc else s.seqPc).toNat ≤ 0x10FE := by
  cases c
  · exact s.seqPc_toNat_le h
  · show (s.pc + 4#16).toNat ≤ 0x10FE
    unfold lastFetch at h
    bv_omega

theorem zext16_toNat_le (nnn : Addr) : (zext16 nnn).toNat ≤ 0x0FFF := by
  rw [zext16_toNat]
  exact Nat.le_of_lt_succ nnn.isLt

/-- The highest target of BNNN is 0x0FFF + 0xFF (45_index_jump_random.md R501). -/
theorem jpV0_toNat_le (nnn : Addr) (b : Byte) : (zext16 nnn + zextByte b).toNat ≤ 0x10FE := by
  have hn := zext16_toNat_le nnn
  have hb : (zextByte b).toNat = b.toNat := BitVec.toNat_setWidth_of_le (by decide)
  have hlt := b.isLt
  rw [BitVec.toNat_add]
  omega

/-- From a fetchable PC, with CALL addresses on the stack, no instruction takes PC past 0x10FE. -/
theorem effect_pc_le {i : Instr} {s : State} (hpc : s.pc.toNat ≤ lastFetch) (hst : StackOk s)
    (hf : ¬ FaultsIn i s) : (effect i s).pc.toNat ≤ 0x10FE := by
  cases i
  case ret =>
    obtain ⟨r, rest, hs⟩ := List.exists_cons_of_ne_nil fun e => hf (.inl ⟨rfl, e⟩)
    have hr : r.toNat ≤ lastFetch := hst.1 r (by simp [hs])
    have hle : (r + 2#16).toNat ≤ 0x1000 := add_two_toNat_le hr
    simp only [effect, State.complete_pc, hs, List.headD_cons]
    omega
  case jp nnn | call nnn => exact (zext16_toNat_le nnn).trans (by decide)
  case jpV0 nnn => exact jpV0_toNat_le nnn _
  case seImm x nn | sneImm x nn | seReg x y | sneReg x y | skp x | sknp x => exact skip_toNat_le hpc _
  case ldVxK x => exact hpc.trans (by decide)
  all_goals exact s.seqPc_toNat_le hpc

/-! ## An instruction keeps the invariant -/

/-- Only CALL makes the stack longer, and it pushes the address it was fetched from, below the capacity
(41_control.md R404). -/
theorem effect_stackOk {i : Instr} {s : State} (hpc : s.pc.toNat ≤ lastFetch) (h : StackOk s)
    (hf : ¬ FaultsIn i s) : StackOk (effect i s) := by
  obtain ⟨haddr, hcap⟩ := h
  rw [StackOk, effect_params]
  by_cases hi : Touches i s .stack
  · obtain rfl | ⟨nnn, rfl⟩ := hi
    · refine ⟨fun r hr => haddr r (List.mem_of_mem_tail hr), fun c hc => ?_⟩
      exact (List.tail_sublist s.stack).length_le.trans (hcap c hc)
    · refine ⟨fun r hr => ?_, fun c hc => ?_⟩
      · obtain rfl | hr := List.mem_cons.1 hr
        · exact hpc
        · exact haddr r hr
      · have hroom : ¬ c ≤ s.stack.length := fun hle => hf (.inr (.inl ⟨nnn, rfl, c, hc, hle⟩))
        exact Nat.lt_of_not_le hroom
  · rw [effect_stack hi]
    exact ⟨haddr, hcap⟩

/-- An instruction stores below 4096, so memory stays canonical (20_memory.md R203). -/
theorem effect_mem_wf {i : Instr} {s : State} (h : s.mem.wf = true) (hf : ¬ FaultsIn i s) :
    (effect i s).mem.wf = true := by
  obtain ⟨bytes, hlen, hmem⟩ := effect_mem i s
  rw [hmem]
  obtain hin | h0 := inRange_storeWidth hf
  · exact Memory.wf_writeList (by rwa [hlen]) h
  · rw [List.length_eq_zero_iff.1 (hlen.trans h0)]
    exact h

/-- An instruction leaves the machine Ready with one more slot used, or Halted with one more, or waiting
for a key in the same slot. -/
theorem effect_schedulerOk {i : Instr} {s : State} (hl : s.life = .ready) (hb : batchOpen s = true)
    (hpc : s.pc.toNat ≤ lastFetch) (h : SchedulerOk s) : SchedulerOk (effect i s) := by
  have hstop := stopRequested_of_batchOpen h hl hb
  obtain ⟨hp, hslot⟩ := batchOpen_iff.1 hb
  by_cases hk : ∃ x, i = .ldVxK x
  · obtain ⟨x, rfl⟩ := hk
    exact ⟨hp, hslot, hstop, hpc⟩
  rw [not_exists] at hk
  by_cases hh : i = .halt
  · subst hh
    exact ⟨Nat.succ_pos s.slot, hslot⟩
  · rw [schedulerOk_ready ((effect_life hh hk).trans hl), effect_slot hk, effect_phase,
      effect_stopRequested, hp, hstop]
    exact ⟨hslot, fun hne => (hne rfl).elim, fun hs => (Bool.false_ne_true hs).elim⟩

/-- A fault in an open batch keeps the invariant (60_exceptions.md R702). -/
theorem State.raise_inv {s : State} (h : s.Inv) (hl : s.life = .ready) (hb : batchOpen s = true)
    (f : FaultRecord) : (s.raise f).Inv where
  memory := h.memory
  pc := h.pc
  stack := h.stack
  scheduler :=
    have ⟨hp, hslot⟩ := batchOpen_iff.1 hb
    have hstop := stopRequested_of_batchOpen h.scheduler hl hb
    ⟨hp, hslot, hstop⟩

theorem exec_inv {i : Instr} {s t : State} (h : s.Inv) (hr : Runs s i)
    (he : exec i s = .next t) : t.Inv := by
  obtain ⟨hl, hb, hf⟩ := hr
  have hpc := pc_le_of_fetch hf
  obtain ⟨-, f, rfl⟩ | ⟨hn, rfl⟩ := exec_next he
  · exact State.raise_inv h hl hb f
  · exact
      { memory := effect_mem_wf h.memory hn
        pc := effect_pc_le hpc h.stack hn
        stack := effect_stackOk hpc h.stack hn
        scheduler := effect_schedulerOk hl hb hpc h.scheduler }

/-! ## The other steps keep the invariant -/

/-- Where an update keeps the data and PC, only the scheduler's clause is to be shown. -/
theorem State.Inv.of_keepsData {s t : State} (h : s.Inv) (hk : KeepsData s t)
    (hpc : t.pc.toNat ≤ 0x10FE) (ht : SchedulerOk t) : t.Inv where
  memory := hk.mem ▸ h.memory
  pc := hpc
  stack := by
    rw [StackOk, hk.stack, hk.params]
    exact h.stack
  scheduler := ht

/-- The scheduler never writes PC. -/
theorem schedule_pc {s t : State} (h : schedule s = .next t) : t.pc = s.pc := by
  obtain ⟨-, rfl⟩ | ⟨-, rfl⟩ | ⟨-, rfl⟩ | ⟨-, rfl⟩ | ⟨-, -, -, rfl⟩ | ⟨-, -, -, rfl⟩ :=
    schedule_updates h
  all_goals rfl

/-- After the last slot of a Ready machine the phases run in order, and a shutdown request is seen from
Poll to Sleep only (60_exceptions.md R720, R725). -/
theorem schedule_schedulerOk_of_ready {s t : State} (h : SchedulerOk s) (hl : s.life = .ready)
    (hb : batchOpen s = false) (hs : schedule s = .next t) : SchedulerOk t := by
  have hslot := slot_of_batch_closed h hl hb
  obtain ⟨-, -, hstop⟩ := (schedulerOk_ready hl).1 h
  obtain ⟨hp, rfl⟩ | ⟨hp, rfl⟩ | ⟨-, rfl⟩ | ⟨-, rfl⟩ | ⟨hp, -, hreq, rfl⟩ | ⟨-, -, hreq, rfl⟩ :=
    schedule_updates hs
  · rw [schedulerOk_ready (by simpa using hl)]
    exact ⟨hslot.le, fun _ => hslot, fun e => by simpa [hp] using hstop e⟩
  · rw [schedulerOk_ready (by simpa using hl)]
    exact ⟨hslot.le, fun _ => hslot, fun e => by simpa [hp] using hstop e⟩
  · rw [schedulerOk_ready (by simpa using hl)]
    exact ⟨hslot.le, fun _ => hslot, fun _ => .inl rfl⟩
  · rw [schedulerOk_ready (by simpa using hl)]
    exact ⟨hslot.le, fun _ => hslot, fun _ => .inr rfl⟩
  · exact ⟨hp, hslot, hreq⟩
  · rw [schedulerOk_ready (by simpa using hl)]
    exact ⟨Nat.zero_le _, fun hne => (hne rfl).elim, fun e => by simp [hreq] at e⟩

/-- From Halted the scheduler leaves life and slot (60_exceptions.md R725). -/
theorem schedule_of_halted {s t : State} (hl : s.life = .halted) (hs : schedule s = .next t) :
    t.life = .halted ∧ t.slot = s.slot := by
  obtain ⟨-, rfl⟩ | ⟨-, rfl⟩ | ⟨-, rfl⟩ | ⟨-, rfl⟩ | ⟨-, hn, -⟩ | ⟨-, hn, -⟩ :=
    schedule_updates hs
  case inr.inr.inr.inr.inl | inr.inr.inr.inr.inr => exact (hn hl).elim
  all_goals exact ⟨hl, rfl⟩

theorem schedule_inv {s t : State} (h : s.Inv)
    (hl : (s.life = .ready ∧ batchOpen s = false) ∨ s.life = .halted)
    (hs : schedule s = .next t) : t.Inv := by
  refine h.of_keepsData (schedule_keepsData hs) (schedule_pc hs ▸ h.pc) ?_
  obtain ⟨hr, hb⟩ | hh := hl
  · exact schedule_schedulerOk_of_ready h.scheduler hr hb hs
  · obtain ⟨hlife, hslot⟩ := schedule_of_halted hh hs
    rw [schedulerOk_halted hlife, hslot]
    exact (schedulerOk_halted hh).1 h.scheduler

/-- A key wait keeps the invariant: it stays, or completes its FX0A in the slot it waits in
(48_misc.md R583). -/
theorem keyWait_inv {s : State} {x : Reg} (h : s.Inv) (hl : s.life = .waitingKey x) :
    (keyWait x s).Inv := by
  have hk := keyWait_keepsData x s
  obtain ⟨hp, hslot, hstop, hpc⟩ := (schedulerOk_waitingKey hl).1 h.scheduler
  obtain e | ⟨k, e⟩ := keyWait_cases x s <;> rw [e] at hk ⊢
  · refine h.of_keepsData hk h.pc ?_
    rw [schedulerOk_waitingKey (by simpa using hl)]
    exact ⟨hp, hslot, hstop, hpc⟩
  · refine h.of_keepsData hk (s.seqPc_toNat_le hpc) ?_
    exact ⟨hslot, fun hne => (hne hp).elim, fun hs => by simp [hstop] at hs⟩

/-- Settles O59, by the cases of a step: an instruction, the fault of a fetch, the scheduler of a Ready
or a Halted machine, a look at the key wait. -/
theorem stepKeepsInvariant : Obligations.StepKeepsInvariant := by
  intro s t h hs
  obtain ⟨hl, hb, ⟨i, hf, he⟩ | ⟨f, -, rfl⟩⟩ | ⟨hl, hb, hs⟩ | ⟨x, hl, rfl⟩ | ⟨hl, hs⟩ :=
    step_cases hs
  · exact exec_inv h ⟨hl, hb, hf⟩ he
  · exact State.raise_inv h hl hb f
  · exact schedule_inv h (.inl ⟨hl, hb⟩) hs
  · exact keyWait_inv h hl
  · exact schedule_inv h (.inr hl) hs

/-! ## Runs of a loaded image -/

/-- The font and INIT_MEM fill memory exactly, so every construction has canonical memory
(20_memory.md R205). -/
theorem State.construct_mem_wf (l : Launch) : (State.construct l).mem.wf = true := by
  have hfont : (Memory.writeList [] 0 l.font.toList).wf = true :=
    Memory.wf_writeList (by rw [Vector.length_toList]; decide) rfl
  exact Memory.wf_writeList (by rw [Vector.length_toList]; decide) hfont

/-- Every construction meets the invariant (10_state.md R120). -/
theorem State.construct_inv (l : Launch) : (State.construct l).Inv where
  memory := State.construct_mem_wf l
  pc := show (0x200#16).toNat ≤ 0x10FE by decide
  stack := ⟨fun _ hr => (List.not_mem_nil hr).elim, fun c _ => Nat.zero_le c⟩
  scheduler := ⟨rfl, rfl, rfl⟩

/-- What a load leaves when it succeeds: an image that fits, at 0x200, and life Ready
(20_memory.md R210). -/
theorem load_success {image : Option (List Byte)} {s t : State}
    (h : load image s = (.success, t)) :
    s.life = .unloaded ∧ ∃ bytes, image = some bytes ∧ bytes.length ≤ maxImage ∧
      t = { s with mem := s.mem.writeList loadBase bytes, life := .ready } := by
  unfold load at h
  by_cases hl : s.life = .unloaded
  · rw [if_pos hl] at h
    cases image with
    | none => simp at h
    | some bytes =>
      by_cases hlen : maxImage < bytes.length
      · simp [hlen] at h
      · simp only [if_neg hlen, Prod.mk.injEq, true_and] at h
        exact ⟨hl, bytes, rfl, Nat.le_of_not_lt hlen, h.symm⟩
  · simp [hl] at h

/-- A successful load keeps the invariant. -/
theorem load_inv {image : Option (List Byte)} {s t : State} (h : s.Inv)
    (hload : load image s = (.success, t)) : t.Inv := by
  obtain ⟨hl, bytes, -, hlen, rfl⟩ := load_success hload
  obtain ⟨hp, hslot, hstop⟩ := (schedulerOk_unloaded hl).1 h.scheduler
  exact
    { memory := Memory.wf_writeList (Nat.add_le_of_le_sub' (by decide) hlen) h.memory
      pc := h.pc
      stack := h.stack
      scheduler := ⟨by simp [hslot], fun hne => (hne hp).elim, fun hs => by simp [hstop] at hs⟩ }

/-- A run of one step more is a step and then the run. -/
theorem step_of_run_succ {n : Nat} {s t : State} (h : Sys2Proof.core.run (n + 1) s = .next t) :
    ∃ u, step s = .next u ∧ Sys2Proof.core.run n u = .next t := by
  have hcore : Sys2Proof.core.step s = step s := rfl
  simp only [Host.Core.run, hcore] at h
  cases hs : step s with
  | next u => exact ⟨u, rfl, by rwa [hs] at h⟩
  | fault r => simp [hs] at h
  | refused r => simp [hs] at h

/-- Any number of steps keeps the invariant. -/
theorem run_inv {n : Nat} {s t : State} (h : s.Inv)
    (hr : Sys2Proof.core.run n s = .next t) : t.Inv := by
  induction n generalizing s with
  | zero =>
    injection hr with hr
    exact hr ▸ h
  | succ n ih =>
    obtain ⟨u, hs, hu⟩ := step_of_run_succ hr
    exact ih (stepKeepsInvariant s u h hs) hu

/-- Settles O60: construction meets the invariant, and the load and every step keep it. -/
theorem loadedRunsMeetInvariant : Obligations.LoadedRunsMeetInvariant := fun l _ _ _ _ hload hrun =>
  run_inv (load_inv (State.construct_inv l) hload) hrun

end Sys2Proof.Machine

/-! What FX33, FX55 and FX65 leave when their addresses are in range (48_misc.md R590 to R592;
20_memory.md R207), and what construction leaves for every launch (10_state.md R120; 20_memory.md R205).
The parts they leave unchanged come from the frame of their effects. -/

namespace Sys2Proof.Machine

/-! ## Memory after writing some bytes -/

/-- The k-th written byte lies at the k-th address. -/
theorem Memory.read_writeList_add (m : Memory) (a : Nat) {bytes : List Byte} {k : Nat}
    (hk : k < bytes.length) : (m.writeList a bytes).read (a + k) = bytes[k] := by
  have hin : a ≤ a + k ∧ a + k < a + bytes.length := ⟨Nat.le_add_right a k, Nat.add_lt_add_left hk a⟩
  rw [Memory.read_writeList, if_pos hin, Nat.add_sub_cancel_left, ← List.getElem_eq_getD]

/-- Below the written bytes memory is as before. -/
theorem Memory.read_writeList_below (m : Memory) {a b : Nat} (bytes : List Byte) (h : b < a) :
    (m.writeList a bytes).read b = m.read b := by
  rw [Memory.read_writeList, if_neg fun hin => Nat.not_le_of_lt h hin.1]

/-- A stored byte is read back at its address (20_memory.md R207). -/
theorem State.store_read_add (s : State) (a : Nat) {bytes : List Byte} {k : Nat}
    (hk : k < bytes.length) : (s.store a bytes).mem.read (a + k) = bytes[k] :=
  Memory.read_writeList_add s.mem a hk

/-! ## The instructions in range -/

section InRange

variable {s : State} (x : Reg)

theorem exec_ldB_inRange (h : InRange s 3) : exec (.ldB x) s = .next (effect (.ldB x) s) :=
  checkData_inside h

theorem exec_storeRegs_inRange (h : InRange s (x.toNat + 1)) :
    exec (.storeRegs x) s = .next (effect (.storeRegs x) s) :=
  checkData_inside h

theorem exec_loadRegs_inRange (h : InRange s (x.toNat + 1)) :
    exec (.loadRegs x) s = .next (effect (.loadRegs x) s) :=
  checkData_inside h

end InRange

/-- An instruction other than HALT and FX0A completes at the PC its effect leaves
(30_encoding.md R300). -/
theorem effect_completed {i : Instr} {s : State} {next : Word} (hpc : (effect i s).pc = next)
    (hh : i ≠ .halt) (hk : ∀ x, i ≠ .ldVxK x) : Completed s (effect i s) next :=
  ⟨hpc, effect_slot hk, effect_life hh hk⟩

/-! ## FX33 (48_misc.md R590) -/

theorem bcdHundreds_toNat (b : Byte) : (bcdHundreds b).toNat = b.toNat / 100 := by
  simp only [bcdHundreds, BitVec.toNat_ofNat]
  omega

theorem bcdTens_toNat (b : Byte) : (bcdTens b).toNat = b.toNat / 10 % 10 := by
  simp only [bcdTens, BitVec.toNat_ofNat]
  omega

theorem bcdOnes_toNat (b : Byte) : (bcdOnes b).toNat = b.toNat % 10 := by
  simp only [bcdOnes, BitVec.toNat_ofNat]
  omega

/-- FX33 leaves the k-th digit of V[x] at I + k. -/
theorem effect_ldB_read (x : Reg) (s : State) {k : Nat} (hk : k < 3) :
    (effect (.ldB x) s).mem.read (s.idx.toNat + k) = (bcdDigits (s.getV x))[k] :=
  s.store_read_add s.dataBase hk

/-- Settles O37: the three digits are the bytes stored at I, and the rest is FX33's frame. -/
theorem bcdEffect : Obligations.BcdEffect := by
  intro x s h
  refine ⟨_, exec_ldB_inRange x (.inl h), effect_completed rfl nofun nofun, ?_, ?_, ?_,
    fun a ha => effect_mem_read fun ⟨hlo, hhi⟩ => ?_, rfl, fun _ => rfl⟩
  · exact (congrArg BitVec.toNat (effect_ldB_read x s (k := 0) (by decide))).trans
      (bcdHundreds_toNat _)
  · exact (congrArg BitVec.toNat (effect_ldB_read x s (k := 1) (by decide))).trans (bcdTens_toNat _)
  · exact (congrArg BitVec.toNat (effect_ldB_read x s (k := 2) (by decide))).trans (bcdOnes_toNat _)
  · exact ha.elim (Nat.not_lt_of_le hlo) (Nat.not_le_of_lt hhi)

/-! ## FX55 and FX65 (48_misc.md R591, R592) -/

/-- FX55 leaves V[r] at I + r for every r up to x. -/
theorem effect_storeRegs_read {x r : Reg} (s : State) (hr : r.toNat ≤ x.toNat) :
    (effect (.storeRegs x) s).mem.read (s.idx.toNat + r.toNat) = s.getV r := by
  have hlt : r.toNat < x.toNat + 1 := Nat.lt_succ_of_le hr
  calc (effect (.storeRegs x) s).mem.read (s.idx.toNat + r.toNat)
      = (firstRegs s (x.toNat + 1))[r.toNat]'(by rwa [firstRegs_length]) :=
        s.store_read_add s.dataBase _
    _ = s.getV (regOf r.toNat) := by rw [List.getElem_eq_getD 0#8, firstRegs_getD s hlt]
    _ = s.getV r := by rw [regOf_self]

/-- Settles O38: the registers are the bytes stored at I, and the rest is FX55's frame. -/
theorem storeRegistersEffect : Obligations.StoreRegistersEffect := by
  intro x s h
  refine ⟨_, exec_storeRegs_inRange x (.inl h), effect_completed rfl nofun nofun,
    fun _ hr => effect_storeRegs_read s hr, fun a ha => effect_mem_read fun ⟨hlo, hhi⟩ => ?_,
    rfl, fun _ => rfl⟩
  exact ha.elim (Nat.not_lt_of_le hlo) (Nat.not_lt_of_le (Nat.le_of_lt_succ hhi))

/-- FX65 leaves the byte at I + r in V[r] for every r up to x. -/
theorem effect_loadRegs_getV {x r : Reg} (s : State) (hr : r.toNat ≤ x.toNat) :
    (effect (.loadRegs x) s).getV r = s.mem.read (s.idx.toNat + r.toNat) :=
  (loadLoop_getV _ _ _ s r x.isLt).trans (if_pos (Nat.lt_succ_of_le hr))

/-- Settles O39: the load loop fills V0 to Vx, and the rest is FX65's frame. -/
theorem loadRegistersEffect : Obligations.LoadRegistersEffect := by
  intro x s h
  refine ⟨_, exec_loadRegs_inRange x (.inl h), effect_completed rfl nofun nofun,
    fun _ hr => effect_loadRegs_getV s hr, fun _ hr => effect_getV (Nat.not_le_of_lt hr),
    effect_idx (by simp [Touches]), by rw [effect_loadRegs]; rfl⟩

/-! ## Construction -/

/-- FONT lies at 0x000 to 0x04F: INIT_MEM is written past it (20_memory.md R205). -/
theorem State.construct_read_font (l : Launch) (k : Fin 80) :
    (State.construct l).mem.read k.val = l.font.get k := by
  have hk : k.val < l.font.toList.length := by rw [Vector.length_toList]; exact k.isLt
  have hfont : (Memory.writeList [] 0 l.font.toList).read k.val = l.font.toList[k.val] := by
    have h := Memory.read_writeList_add [] 0 hk
    rwa [Nat.zero_add] at h
  calc (State.construct l).mem.read k.val
      = (Memory.writeList [] 0 l.font.toList).read k.val :=
        Memory.read_writeList_below _ _ k.isLt
    _ = l.font.toList[k.val] := hfont
    _ = l.font.get k := Vector.getElem_toList _

/-- INIT_MEM lies from 0x050 (20_memory.md R205). -/
theorem State.construct_read_initMem (l : Launch) (k : Fin 4016) :
    (State.construct l).mem.read (0x050 + k.val) = l.initMem.get k := by
  have hk : k.val < l.initMem.toList.length := by rw [Vector.length_toList]; exact k.isLt
  exact (Memory.read_writeList_add _ initMemBase hk).trans (Vector.getElem_toList _)

/-- Settles O54: FONT and INIT_MEM are what memory reads, the display is the cleared one, and every other
field is the launch's or State.reset's. -/
theorem constructionValues : Obligations.ConstructionValues := fun l =>
  ⟨rfl, rfl, rfl, rfl, pixelAt_clearFb, rfl, rfl, rfl, rfl, rfl, fun _ => rfl, rfl,
    State.construct_read_font l, State.construct_read_initMem l⟩

end Sys2Proof.Machine

/-! Decoding and encoding (30_encoding.md R300 to R314): each is the other's inverse, and the decoder's
branches are the rows of the opcode map.  `decodeWord_encodes` says once what the decoder can answer,
`decodeWord_row` what it answers for a word of a row; later proofs cite these two. -/

namespace Sys2Proof
open Laws

/-! ## Decoding an encoded instruction (R303) -/

theorem decodeWord_encodeWord {i : Instr} (h : i.WellFormed) : decodeWord (encodeWord i) = some i := by
  cases i
  case drw x y n =>
    have hn : n ≤ 15 := of_decide_eq_true h
    have hmod : n % 16 = n := by omega
    simp [encodeWord, decodeWord, hmod]
  case halt | cls | ret => rfl
  case seReg | sneReg => simp [encodeWord, decodeWord]
  case ldReg | orReg | andReg | xorReg | addReg | subReg | shr | subnReg | shl =>
    simp [encodeWord, decodeWord, decodeClass8]
  case skp | sknp => simp [encodeWord, decodeWord, decodeClassE]
  case ldVxDt | ldVxK | ldDtVx | ldStVx | addI | ldF | ldB | storeRegs | loadRegs =>
    simp [encodeWord, decodeWord, decodeClassF]
  all_goals simp [encodeWord, decodeWord]

theorem decode_encode_append {i : Instr} (h : i.WellFormed) (rest : List Byte) :
    decode (encode i ++ rest) = .ok (i, rest) := by
  simp [encode, bytesOfWord, decode, decodeWord_encodeWord h]

/-- Settles O1: the word decoder reads back the fields of the encoder's format, and the byte decoder puts
the word's two bytes together. -/
theorem decodeOfEncode : Obligations.DecodeOfEncode := fun _ h =>
  ⟨decodeWord_encodeWord h, decode_encode_append h⟩

/-! ## A word put together again from its fields (R301) -/

section Reassembly
variable {w : Word} {c : BitVec 4}

theorem formatA_fieldNNN (hc : fieldC w = c) : formatA c (fieldNNN w) = w := hc ▸ formatA_fields w

theorem formatXNN_fieldX_fieldNN {nn : Byte} (hc : fieldC w = c) (hnn : fieldNN w = nn) :
    formatXNN c (fieldX w) nn = w := by rw [← hc, ← hnn, formatXNN_fields]

theorem formatXYN_fieldX_fieldY {n : BitVec 4} (hc : fieldC w = c) (hn : fieldN w = n) :
    formatXYN c (fieldX w) (fieldY w) n = w := by rw [← hc, ← hn, formatXYN_fields]

end Reassembly

/-! ## What the decoder can answer (R311) -/

/-- The instruction is well formed and the word is its encoding. -/
def EncodesTo (i : Instr) (w : Word) : Prop := i.WellFormed ∧ encodeWord i = w

theorem decodeClass0_encodes {w : Word} {i : Instr} (h : decodeClass0 w = some i) :
    EncodesTo i w := by
  unfold decodeClass0 at h
  split_ifs at h with h0 h1 h2 <;> cases h
  · exact ⟨rfl, h0.symm⟩
  · exact ⟨rfl, h1.symm⟩
  · exact ⟨rfl, h2.symm⟩

theorem decodeClass8_encodes {w : Word} {i : Instr} (hc : fieldC w = 0x8#4)
    (h : decodeClass8 w = some i) : EncodesTo i w := by
  unfold decodeClass8 at h
  split at h
  case h_10 => cases h
  all_goals
    next hn =>
    cases h
    exact ⟨rfl, formatXYN_fieldX_fieldY hc (BitVec.eq_of_toNat_eq hn)⟩

theorem decodeClassE_encodes {w : Word} {i : Instr} (hc : fieldC w = 0xE#4)
    (h : decodeClassE w = some i) : EncodesTo i w := by
  unfold decodeClassE at h
  split_ifs at h
  all_goals
    next hnn =>
    cases h
    exact ⟨rfl, formatXNN_fieldX_fieldNN hc hnn⟩

theorem decodeClassF_encodes {w : Word} {i : Instr} (hc : fieldC w = 0xF#4)
    (h : decodeClassF w = some i) : EncodesTo i w := by
  unfold decodeClassF at h
  split_ifs at h
  all_goals
    next hnn =>
    cases h
    exact ⟨rfl, formatXNN_fieldX_fieldNN hc hnn⟩

/-- Branch by branch, the operands are the word's own fields and the opcode bits are those tested.  The
cases are the decoder's branches in order: h_1 is class 0, h_16 class F. -/
theorem decodeWord_encodes {w : Word} {i : Instr} (h : decodeWord w = some i) : EncodesTo i w := by
  unfold decodeWord at h
  split at h
  case h_1 => exact decodeClass0_encodes h
  case h_9 hc => exact decodeClass8_encodes (BitVec.eq_of_toNat_eq hc) h
  case h_15 hc => exact decodeClassE_encodes (BitVec.eq_of_toNat_eq hc) h
  case h_16 =>
    have hlt : (fieldC w).toNat < 16 := (fieldC w).isLt
    have hc : (fieldC w).toNat = 0xF := by
      simp only [imp_false] at *
      omega
    exact decodeClassF_encodes (BitVec.eq_of_toNat_eq hc) h
  case h_6 hc | h_10 hc =>
    split_ifs at h with hn
    cases h
    exact ⟨rfl, formatXYN_fieldX_fieldY (BitVec.eq_of_toNat_eq hc) hn⟩
  case h_2 hc | h_3 hc | h_11 hc | h_12 hc =>
    cases h
    exact ⟨rfl, formatA_fieldNNN (BitVec.eq_of_toNat_eq hc)⟩
  case h_4 hc | h_5 hc | h_7 hc | h_8 hc | h_13 hc =>
    cases h
    exact ⟨rfl, formatXNN_fieldX_fieldNN (BitVec.eq_of_toNat_eq hc) rfl⟩
  case h_14 hc =>
    cases h
    have hn : (fieldN w).toNat ≤ 15 := Nat.le_of_lt_succ (fieldN w).isLt
    refine ⟨decide_eq_true hn, formatXYN_fieldX_fieldY (BitVec.eq_of_toNat_eq hc) ?_⟩
    exact ((BitVec.ofNat_toNat 4 (fieldN w)).trans (BitVec.setWidth_eq _)).symm

/-- Settles O2: every branch of the decoder gives an instruction that encodes to the word. -/
theorem encodeOfDecode : Obligations.EncodeOfDecode := fun _ _ => decodeWord_encodes

/-! ## The fields a row fixes (R310) -/

theorem OpRow.selects_iff {r : OpRow} {w : Word} : r.selects w = true ↔ w &&& r.mask = r.value :=
  beq_iff_eq

section SelectedFields
variable {r : OpRow} {w : Word}

/-- A field that the mask covers is the match's. -/
theorem extractLsb'_of_selects {start len : Nat} (h : r.selects w = true)
    (hm : r.mask.extractLsb' start len = BitVec.allOnes len) :
    w.extractLsb' start len = r.value.extractLsb' start len := by
  rw [← OpRow.selects_iff.1 h, BitVec.extractLsb'_and, hm, BitVec.and_allOnes]

theorem fieldC_of_selects (h : r.selects w = true) (hm : fieldC r.mask = BitVec.allOnes 4) :
    fieldC w = fieldC r.value :=
  extractLsb'_of_selects h hm

theorem fieldN_of_selects (h : r.selects w = true) (hm : fieldN r.mask = BitVec.allOnes 4) :
    fieldN w = fieldN r.value :=
  extractLsb'_of_selects h hm

theorem fieldNN_of_selects (h : r.selects w = true) (hm : fieldNN r.mask = BitVec.allOnes 8) :
    fieldNN w = fieldNN r.value :=
  extractLsb'_of_selects h hm

theorem eq_value_of_selects (h : r.selects w = true) (hm : r.mask = BitVec.allOnes 16) :
    w = r.value := by
  rw [← OpRow.selects_iff.1 h, hm, BitVec.and_allOnes]

end SelectedFields

/-! ## The row of a decoded word (R310) -/

theorem decodeWord_class8 {w : Word} (h : fieldC w = 0x8#4) : decodeWord w = decodeClass8 w := by
  rw [decodeWord, h]; rfl

theorem decodeWord_classE {w : Word} (h : fieldC w = 0xE#4) : decodeWord w = decodeClassE w := by
  rw [decodeWord, h]; rfl

theorem decodeWord_classF {w : Word} (h : fieldC w = 0xF#4) : decodeWord w = decodeClassF w := by
  rw [decodeWord, h]; rfl

/-- A word of an instruction's row decodes to an instruction of that row: the fields that the mask covers
are those that choose the decoder's branch. -/
theorem decodeWord_row_of_selects {i : Instr} {w : Word} (h : i.row.selects w = true) :
    (decodeWord w).map Instr.row = some i.row := by
  cases i <;> dsimp only [Instr.row] at h
  case halt | cls | ret => rw [eq_value_of_selects h rfl]; rfl
  case seReg | sneReg =>
    rw [decodeWord, fieldC_of_selects h rfl, fieldN_of_selects h rfl]; rfl
  case ldReg | orReg | andReg | xorReg | addReg | subReg | shr | subnReg | shl =>
    rw [decodeWord_class8 (fieldC_of_selects h rfl), decodeClass8, fieldN_of_selects h rfl]; rfl
  case skp | sknp =>
    rw [decodeWord_classE (fieldC_of_selects h rfl), decodeClassE, fieldNN_of_selects h rfl]; rfl
  case ldVxDt | ldVxK | ldDtVx | ldStVx | addI | ldF | ldB | storeRegs | loadRegs =>
    rw [decodeWord_classF (fieldC_of_selects h rfl), decodeClassF, fieldNN_of_selects h rfl]; rfl
  all_goals rw [decodeWord, fieldC_of_selects h rfl]; rfl

/-- The match of each row is itself a word of the row. -/
theorem decodeWord_value_row :
    ∀ r ∈ opcodeRows, (decodeWord r.value).map Instr.row = some r := by decide

/-- A word that selects a row of the table decodes to an instruction of that row. -/
theorem decodeWord_row {r : OpRow} (hr : r ∈ opcodeRows) {w : Word}
    (h : r.selects w = true) : (decodeWord w).map Instr.row = some r := by
  obtain ⟨i, -, rfl⟩ := Option.map_eq_some_iff.1 (decodeWord_value_row r hr)
  exact decodeWord_row_of_selects h

/-- The word of every well-formed instruction selects its row, one of the table's. -/
theorem encodeWord_selects_row : ∀ i : Instr, EncodedInRow.Statement i
  | .halt => EncodedInRow.halt
  | .cls => EncodedInRow.cls
  | .ret => EncodedInRow.ret
  | .jp nnn => EncodedInRow.jp nnn
  | .call nnn => EncodedInRow.call nnn
  | .seImm x nn => EncodedInRow.seImm x nn
  | .sneImm x nn => EncodedInRow.sneImm x nn
  | .seReg x y => EncodedInRow.seReg x y
  | .ldImm x nn => EncodedInRow.ldImm x nn
  | .addImm x nn => EncodedInRow.addImm x nn
  | .ldReg x y => EncodedInRow.ldReg x y
  | .orReg x y => EncodedInRow.orReg x y
  | .andReg x y => EncodedInRow.andReg x y
  | .xorReg x y => EncodedInRow.xorReg x y
  | .addReg x y => EncodedInRow.addReg x y
  | .subReg x y => EncodedInRow.subReg x y
  | .shr x y => EncodedInRow.shr x y
  | .subnReg x y => EncodedInRow.subnReg x y
  | .shl x y => EncodedInRow.shl x y
  | .sneReg x y => EncodedInRow.sneReg x y
  | .ldI nnn => EncodedInRow.ldI nnn
  | .jpV0 nnn => EncodedInRow.jpV0 nnn
  | .rnd x nn => EncodedInRow.rnd x nn
  | .drw x y n => EncodedInRow.drw x y n
  | .skp x => EncodedInRow.skp x
  | .sknp x => EncodedInRow.sknp x
  | .ldVxDt x => EncodedInRow.ldVxDt x
  | .ldVxK x => EncodedInRow.ldVxK x
  | .ldDtVx x => EncodedInRow.ldDtVx x
  | .ldStVx x => EncodedInRow.ldStVx x
  | .addI x => EncodedInRow.addI x
  | .ldF x => EncodedInRow.ldF x
  | .ldB x => EncodedInRow.ldB x
  | .storeRegs x => EncodedInRow.storeRegs x
  | .loadRegs x => EncodedInRow.loadRegs x

theorem decodeWord_selects_row {w : Word} {i : Instr} (h : decodeWord w = some i) :
    i.row ∈ opcodeRows ∧ i.row.selects w = true := by
  obtain ⟨hwf, rfl⟩ := decodeWord_encodes h
  exact encodeWord_selects_row i hwf

/-- Settles O3: a decoded word is the encoding of its instruction, which lies in the instruction's row;
a word of some row decodes. -/
theorem decoderFollowsOpcodeMap : Obligations.DecoderFollowsOpcodeMap := by
  refine fun w => ⟨fun i => decodeWord_selects_row, fun hnone r hr => ?_, fun hall => ?_⟩
  · by_contra hsel
    have hrow := decodeWord_row hr (Bool.eq_true_of_not_eq_false hsel)
    simp [hnone] at hrow
  · rw [Option.eq_none_iff_forall_ne_some]
    intro i hi
    obtain ⟨hmem, hsel⟩ := decodeWord_selects_row hi
    exact Bool.false_ne_true ((hall i.row hmem).symm.trans hsel)

/-- Settles O4: both rows are the row of the one instruction that the word decodes to. -/
theorem noWordMatchesTwoRows : Obligations.NoWordMatchesTwoRows := by
  intro w r hr r' hr' h h'
  have hrow := decodeWord_row hr h
  have hrow' := decodeWord_row hr' h'
  exact Option.some.inj (hrow.symm.trans hrow')

/-- Settles O6: six fixed words, decoded. -/
theorem sourceWordsDecode : Obligations.SourceWordsDecode := by
  unfold Obligations.SourceWordsDecode
  decide

/-! ## Two bytes (R314) -/

/-- What a successful decode has read: two bytes, whose word decodes. -/
theorem bytes_of_decode_ok {bytes rest : List Byte} {i : Instr} (h : decode bytes = .ok (i, rest)) :
    ∃ hi lo, bytes = hi :: lo :: rest ∧ decodeWord (wordOfBytes hi lo) = some i := by
  match bytes with
  | [] | [_] => cases h
  | hi :: lo :: tail =>
    rw [decode] at h
    split at h
    · next hw =>
      cases h
      exact ⟨hi, lo, rfl, hw⟩
    · cases h

end Sys2Proof

namespace Sys2Proof.Machine

/-! ## Fetch (R300, R314) -/

/-- PC and the two bytes there decide a fetch. -/
theorem fetch_congr {s t : State} (hpc : s.pc = t.pc) (hb : fetchBytes s = fetchBytes t) :
    fetch s = fetch t := by
  rw [fetch, fetch, hpc, hb]

theorem fetch_of_decode {s : State} {i : Instr} {rest : List Byte} (hpc : s.pc.toNat ≤ lastFetch)
    (h : decode (fetchBytes s) = .ok (i, rest)) : fetch s = .ok i := by
  rw [fetch, if_neg (Nat.not_lt.2 hpc), h]

/-- Settles O7: the decoder takes two bytes off its list, and a fetch looks at PC and two bytes only. -/
theorem instructionsAreTwoBytes : Obligations.InstructionsAreTwoBytes := by
  refine ⟨fun bytes i rest h => ?_, fun s t hpc h0 h1 => fetch_congr hpc ?_⟩
  · obtain ⟨hi, lo, rfl, -⟩ := bytes_of_decode_ok h
    exact ⟨rfl, rfl⟩
  · rw [fetchBytes, fetchBytes, h0, h1]

/-- Settles O8: the fetch gives the decoded instruction, and a step that runs it is its meaning. -/
theorem stepRunsDecodedInstruction : Obligations.StepRunsDecodedInstruction :=
  fun _ _ _ hlife hphase hslot hpc hdec =>
    step_of_runs ⟨hlife, batchOpen_iff.2 ⟨hphase, hslot⟩, fetch_of_decode hpc hdec⟩

end Sys2Proof.Machine

/-! Jump, call and return (41_control.md R402 to R405). -/

namespace Sys2Proof.Machine

section Control

variable {nnn : Addr} {s : State}

theorem exec_jp : exec (.jp nnn) s = .next (s.complete (zext16 nnn)) := rfl

/-- CALL faults on a full stack and has its effect on any other (41_control.md R404). -/
theorem exec_call : exec (.call nnn) s =
    if stackFull s.params.stackCapacity s.stack then
      .next (s.raise (.stackOverflow s.pc (encodeWord (.call nnn))))
    else .next (effect (.call nnn) s) := rfl

theorem exec_call_of_room (h : ∀ c, s.params.stackCapacity = some c → s.stack.length < c) :
    exec (.call nnn) s = .next (effect (.call nnn) s) := by
  have hroom : ¬ stackFull s.params.stackCapacity s.stack = true := fun hfull => by
    obtain ⟨c, hc, hle⟩ := (stackFull_iff _ _).1 hfull
    exact Nat.not_lt.2 hle (h c hc)
  rw [exec_call, if_neg hroom]

theorem exec_call_of_full {c : Nat} (hc : s.params.stackCapacity = some c)
    (hle : c ≤ s.stack.length) :
    exec (.call nnn) s = .next (s.raise (.stackOverflow s.pc (encodeWord (.call nnn)))) := by
  rw [exec_call, if_pos ((stackFull_iff _ _).2 ⟨c, hc, hle⟩)]

/-- RET on a stack that is not empty continues after the CALL whose address it pops
(41_control.md R402). -/
theorem exec_ret_cons {r : Word} {rest : List Word} (h : s.stack = r :: rest) :
    exec .ret s = .next ((s.setStack rest).complete (r + 2#16)) := by
  rw [exec, execRet, h]

end Control

/-- Settles O15: PC is the address zero-extended, which keeps its number. -/
theorem jumpEffect : Obligations.JumpEffect := fun nnn _ =>
  ⟨_, exec_jp, zext16_toNat nnn, rfl⟩

/-- Settles O16: with room CALL has its effect, at the capacity it takes the fault. -/
theorem callEffect : Obligations.CallEffect := fun nnn _ =>
  ⟨fun hroom => ⟨_, exec_call_of_room hroom, zext16_toNat nnn, rfl⟩,
    fun _ hc hle => exec_call_of_full hc hle⟩

/-- Settles O17: CALL leaves its own address on top of the old stack, and RET pops that. -/
theorem callThenReturn : Obligations.CallThenReturn := by
  intro nnn s t u hroom hcall hstack
  obtain rfl : effect (.call nnn) s = t := by
    simpa [exec_call_of_room hroom] using hcall
  have hu : u.stack = s.pc :: s.stack := hstack
  exact ⟨_, exec_ret_cons hu, rfl, rfl⟩

end Sys2Proof.Machine

/-! The register and immediate skips (42_skip.md R420 to R424). -/

namespace Sys2Proof.Machine

/-- A skip whose test decides `p` has the two next PCs of R420 by `p`, and otherwise only counts its
slot. -/
theorem skipIf_of_iff {c : Bool} {p : Prop} [Decidable p] (s : State) (h : c = true ↔ p) :
    skipIf c s = .next { s with
      pc := if p then s.pc + 4#16 else s.pc + 2#16, slot := s.slot + 1 } := by
  have hpc : (if c then s.skipPc else s.seqPc) = if p then s.pc + 4#16 else s.pc + 2#16 :=
    if_congr h rfl rfl
  rw [skipIf_eq, hpc]
  rfl

/-- Settles O18: the tests of SE decide equality, those of SNE inequality. -/
theorem skipEffect : Obligations.SkipEffect :=
  ⟨fun _ _ s => skipIf_of_iff s beq_iff_eq, fun _ _ s => skipIf_of_iff s bne_iff_ne,
    fun _ _ s => skipIf_of_iff s beq_iff_eq, fun _ _ s => skipIf_of_iff s bne_iff_ne⟩

end Sys2Proof.Machine

/-! The immediate load (43_immediate.md R440). -/

namespace Sys2Proof.Machine

/-- Writing V[x] completes at PC + 2 and leaves every other register. -/
theorem writeReg_effect (x : Reg) (b : Byte) (s : State) :
    ∃ t, writeReg x b s = .next t ∧ Completed s t (s.pc + 2#16) ∧
      t.getV x = b ∧ ∀ r, r ≠ x → t.getV r = s.getV r :=
  ⟨_, writeReg_eq x b s, ⟨rfl, rfl, rfl⟩, (State.getV_setV s x x b).trans (if_pos rfl),
    fun r hr => (State.getV_setV s x r b).trans (if_neg hr)⟩

/-- Settles O19: the word is the encoding of LD Vx, NN, whose one effect is to write V[x]. -/
theorem loadImmediateEffect : Obligations.LoadImmediateEffect := fun x nn =>
  ⟨decodeWord_encodeWord (i := .ldImm x nn) rfl, fun s => writeReg_effect x nn s⟩

end Sys2Proof.Machine

/-! The register ALU: move, add, subtract and shift (44_alu.md R460 to R470). -/

namespace Sys2Proof.Machine

/-! ## Writing a result and its flag (R460, R461) -/

/-- The flag is written last, so for x = F it is what VF holds (decision D10 of the spec). -/
theorem writeRegFlag_effect (x : Reg) (b f : Byte) (s : State) :
    ∃ t, writeRegFlag x b f s = .next t ∧ Completed s t (s.pc + 2#16) ∧
      t.getV regVF = f ∧ (x ≠ regVF → t.getV x = b) ∧
      ∀ r, r ≠ x → r ≠ regVF → t.getV r = s.getV r := by
  refine ⟨_, writeRegFlag_eq x b f s, ⟨rfl, rfl, rfl⟩, ?_, fun hx => ?_, fun r hrx hrf => ?_⟩
  · simp
  · simp [hx]
  · simp [hrx, hrf]

/-! ## The flags as numbers -/

theorem flagByte_decide (p : Prop) [Decidable p] :
    flagByte (decide p) = if p then 1#8 else 0#8 := by
  simp [flagByte]

theorem flagByte_toNat (b : Bool) : (flagByte b).toNat = b.toNat := by
  cases b <;> rfl

/-- The flag that captures bit i of a value is that binary digit of it. -/
theorem flagByte_getLsbD_toNat (v : Byte) (i : Nat) :
    (flagByte (v.getLsbD i)).toNat = v.toNat / 2 ^ i % 2 :=
  (flagByte_toNat _).trans (Nat.toNat_testBit v.toNat i)

theorem shrFlag_toNat (v : Byte) : (shrFlag v).toNat = v.toNat % 2 := by
  rw [shrFlag, flagByte_getLsbD_toNat, pow_zero, Nat.div_one]

theorem shlFlag_bit0_toNat (v : Byte) : (shlFlag .bit0 v).toNat = v.toNat % 2 :=
  shrFlag_toNat v

/-- Bit 7 is the highest digit of a byte. -/
theorem shlFlag_bit7_toNat (v : Byte) : (shlFlag .bit7 v).toNat = v.toNat / 128 := by
  have hlt : v.toNat / 128 < 2 := Nat.div_lt_of_lt_mul v.isLt
  exact (flagByte_getLsbD_toNat v 7).trans (Nat.mod_eq_of_lt hlt)

/-! ## The results as numbers -/

/-- Byte subtraction is exact subtraction modulo 256. -/
theorem byte_sub_toNat (a b : Byte) :
    ((a - b).toNat : Int) = ((a.toNat : Int) - b.toNat) % 256 := by
  have hb := b.isLt
  rw [BitVec.toNat_sub]
  omega

theorem byte_shiftRight_one_toNat (v : Byte) : (v >>> 1).toNat = v.toNat / 2 := by
  rw [BitVec.toNat_ushiftRight, Nat.shiftRight_one]

theorem byte_shiftLeft_one_toNat (v : Byte) : (v <<< 1).toNat = v.toNat * 2 % 256 := by
  rw [BitVec.toNat_shiftLeft, Nat.shiftLeft_eq, pow_one]

/-- The value that SHR and SHL shift is the one SHIFT_SOURCE names (decision D8 of the spec). -/
theorem shiftOperand_eq {s : State} {x y : Reg} {v : Byte}
    (hx : s.params.shiftSource = .x → v = s.getV x)
    (hy : s.params.shiftSource = .y → v = s.getV y) : shiftOperand s x y = v := by
  rw [shiftOperand]
  cases hsrc : s.params.shiftSource with
  | x => exact (hx hsrc).symm
  | y => exact (hy hsrc).symm

/-! ## The instructions -/

/-- Settles O21: the one effect is to write V[x]. -/
theorem moveEffect : Obligations.MoveEffect := fun x y s => writeReg_effect x (s.getV y) s

/-- Settles O23: the flag is the test of the exact sum, the result its byte. -/
theorem addEffect : Obligations.AddEffect := by
  intro x y s
  obtain ⟨t, he, hdone, hflag, hres, hframe⟩ := writeRegFlag_effect x (s.getV x + s.getV y)
    (carryFlag (s.getV x) (s.getV y)) s
  refine ⟨t, he, hdone, hflag.trans (flagByte_decide _), fun hx => ?_, hframe⟩
  rw [hres hx, BitVec.toNat_add]

/-- Writing a difference and its no-borrow flag, for either direction of the subtraction. -/
theorem writeRegFlag_sub (x : Reg) (a b : Byte) (s : State) :
    ∃ t, writeRegFlag x (a - b) (noBorrowFlag a b) s = .next t ∧ Completed s t (s.pc + 2#16) ∧
      t.getV regVF = (if a.toNat ≥ b.toNat then 1#8 else 0#8) ∧
      (x ≠ regVF → ((t.getV x).toNat : Int) = ((a.toNat : Int) - b.toNat) % 256) ∧
      ∀ r, r ≠ x → r ≠ regVF → t.getV r = s.getV r := by
  obtain ⟨t, he, hdone, hflag, hres, hframe⟩ := writeRegFlag_effect x (a - b) (noBorrowFlag a b) s
  refine ⟨t, he, hdone, hflag.trans (flagByte_decide _), fun hx => ?_, hframe⟩
  rw [hres hx, byte_sub_toNat]

/-- Settles O24: SUB and SUBN write the two differences of V[x] and V[y]. -/
theorem subtractEffect : Obligations.SubtractEffect :=
  ⟨fun x y s => writeRegFlag_sub x (s.getV x) (s.getV y) s,
    fun x y s => writeRegFlag_sub x (s.getV y) (s.getV x) s⟩

/-- Settles O25: the result is half of the value SHIFT_SOURCE names, the flag its bit 0. -/
theorem shiftRightEffect : Obligations.ShiftRightEffect := by
  intro x y s v hsx hsy
  obtain rfl : shiftOperand s x y = v := shiftOperand_eq hsx hsy
  obtain ⟨t, he, hdone, hflag, hres, hframe⟩ := writeRegFlag_effect x (shiftOperand s x y >>> 1)
    (shrFlag (shiftOperand s x y)) s
  refine ⟨t, he, hdone, ?_, fun hx => ?_, hframe⟩
  · rw [hflag, shrFlag_toNat]
  · rw [hres hx, byte_shiftRight_one_toNat]

/-- Settles O26: the result is twice the value SHIFT_SOURCE names, the flag its bit that SHL_VF_BIT
names. -/
theorem shiftLeftEffect : Obligations.ShiftLeftEffect := by
  intro x y s v hsx hsy
  obtain rfl : shiftOperand s x y = v := shiftOperand_eq hsx hsy
  obtain ⟨t, he, hdone, hflag, hres, hframe⟩ := writeRegFlag_effect x (shiftOperand s x y <<< 1)
    (shlFlag s.params.shlVfBit (shiftOperand s x y)) s
  refine ⟨t, he, hdone, fun hbit => ?_, fun hbit => ?_, fun hx => ?_, hframe⟩
  · rw [hflag, hbit, shlFlag_bit0_toNat]
  · rw [hflag, hbit, shlFlag_bit7_toNat]
  · rw [hres hx, byte_shiftLeft_one_toNat]

end Sys2Proof.Machine

/-! The index register and the jump with offset (45_index_jump_random.md R500, R501; 48_misc.md R584,
R585). -/

namespace Sys2Proof.Machine

/-! ## The addresses as numbers -/

theorem zextByte_toNat (b : Byte) : (zextByte b).toNat = b.toNat :=
  BitVec.toNat_setWidth_of_le (by decide)

/-- Adding a byte to I wraps at 16 bits (R584). -/
theorem add_zextByte_toNat (a : Word) (b : Byte) :
    (a + zextByte b).toNat = (a.toNat + b.toNat) % 65536 := by
  rw [BitVec.toNat_add, zextByte_toNat]

/-- The sum of a 12-bit address and a byte is below the 16-bit wrap (R501). -/
theorem zext16_add_zextByte_toNat (nnn : Addr) (b : Byte) :
    (zext16 nnn + zextByte b).toNat = nnn.toNat + b.toNat := by
  have hn := nnn.isLt
  have hb := b.isLt
  rw [add_zextByte_toNat, zext16_toNat]
  exact Nat.mod_eq_of_lt (by omega)

theorem byte_lowNibble_toNat (b : Byte) : (b &&& 0x0F#8).toNat = b.toNat % 16 :=
  Nat.and_two_pow_sub_one_eq_mod b.toNat 4

/-- The glyphs lie from address 0, five bytes to each digit (R585). -/
theorem glyphAddr_toNat (b : Byte) : (glyphAddr b).toNat = 5 * (b.toNat % 16) := by
  rw [glyphAddr, byte_lowNibble_toNat, BitVec.toNat_ofNat]
  exact Nat.mod_eq_of_lt (by omega)

/-! ## The instructions -/

/-- Writing I completes at PC + 2 and leaves every register. -/
theorem writeIdx_effect {a : Word} {n : Nat} (s : State) (ha : a.toNat = n) :
    ∃ t, writeIdx a s = .next t ∧ Completed s t (s.pc + 2#16) ∧
      t.idx.toNat = n ∧ ∀ r, t.getV r = s.getV r :=
  ⟨_, writeIdx_eq a s, ⟨rfl, rfl, rfl⟩, ha, fun _ => rfl⟩

/-- Settles O27: each of the three only writes I, with an address whose number is the rule's. -/
theorem indexEffect : Obligations.IndexEffect :=
  ⟨fun nnn s => writeIdx_effect s (zext16_toNat nnn),
    fun x s => writeIdx_effect s (glyphAddr_toNat (s.getV x)),
    fun x s => writeIdx_effect s (add_zextByte_toNat s.idx (s.getV x))⟩

theorem exec_jpV0 (nnn : Addr) (s : State) :
    exec (.jpV0 nnn) s = .next (s.complete (zext16 nnn + zextByte (s.getV 0x0#4))) := rfl

/-- Settles O28: the target's number is the exact sum, which 16 bits hold. -/
theorem jumpOffsetEffect : Obligations.JumpOffsetEffect := fun nnn s =>
  ⟨_, exec_jpV0 nnn s, zext16_add_zextByte_toNat nnn (s.getV 0x0#4), rfl⟩

end Sys2Proof.Machine

/-! The draw unit (46_draw.md R520 to R526): DXYN toggles each target of its sprite once, since these
are pairwise distinct, and its collision flag is about the buffer before the draw. -/

namespace Sys2Proof.Machine

/-! ## The targets of one sprite (R520, R525) -/

/-- Within 32 rows and 64 columns an origin gives every position a pixel of its own (R522). -/
theorem pixelIndex_inj {ox oy r c r' c' : Nat} (hr : r < 32) (hr' : r' < 32) (hc : c < 64)
    (hc' : c' < 64) (h : pixelIndex ox oy r c = pixelIndex ox oy r' c') : r = r' ∧ c = c' := by
  have hval : (ox + c + 64 * (oy + r)) % 2048 = (ox + c' + 64 * (oy + r')) % 2048 :=
    congrArg Fin.val h
  omega

/-- Settles O32: a sprite has fewer rows and columns than the display. -/
theorem spritePixelsDistinct : Obligations.SpritePixelsDistinct :=
  fun _ _ _ _ _ _ hr hr' hc hc' =>
    pixelIndex_inj (by omega) (by omega) (by omega) (by omega)

/-- The pixels of the set bits of row r, the columns from the left. -/
def rowTargets (byte : Byte) (ox oy r : Nat) : List Pixel :=
  (List.range 8).filterMap fun c => if spriteBit byte c then some (pixelIndex ox oy r c) else none

theorem spriteTargets_eq (mem : Memory) (base ox oy n : Nat) :
    spriteTargets mem base ox oy n =
      (List.range n).flatMap fun r => rowTargets (mem.read (base + r)) ox oy r := rfl

theorem mem_rowTargets {byte : Byte} {ox oy r : Nat} {k : Pixel} :
    k ∈ rowTargets byte ox oy r ↔
      ∃ c < 8, spriteBit byte c = true ∧ k = pixelIndex ox oy r c := by
  simp [rowTargets, eq_comm (a := k)]

theorem mem_spriteTargets {mem : Memory} {base ox oy n : Nat} {k : Pixel} :
    k ∈ spriteTargets mem base ox oy n ↔
      ∃ r < n, ∃ c < 8, spriteBit (mem.read (base + r)) c = true ∧ k = pixelIndex ox oy r c := by
  simp [spriteTargets_eq, mem_rowTargets]

theorem rowTargets_nodup (byte : Byte) (ox oy : Nat) {r : Nat} (hr : r < 32) :
    (rowTargets byte ox oy r).Nodup := by
  rw [rowTargets, List.Nodup, List.pairwise_filterMap]
  refine List.nodup_range.imp_of_mem fun {c c'} hc hc' hne k hk k' hk' he => hne ?_
  obtain ⟨-, rfl⟩ : spriteBit byte c = true ∧ pixelIndex ox oy r c = k := by simpa using hk
  obtain ⟨-, rfl⟩ : spriteBit byte c' = true ∧ pixelIndex ox oy r c' = k' := by simpa using hk'
  rw [List.mem_range] at hc hc'
  exact (pixelIndex_inj hr hr (by omega) (by omega) he).2

theorem rowTargets_disjoint (byte byte' : Byte) (ox oy : Nat) {r r' : Nat} (hr : r < 32)
    (hr' : r' < 32) (hne : r ≠ r') :
    (rowTargets byte ox oy r).Disjoint (rowTargets byte' ox oy r') := by
  intro k hk hk'
  obtain ⟨c, hc, -, rfl⟩ := mem_rowTargets.1 hk
  obtain ⟨c', hc', -, he⟩ := mem_rowTargets.1 hk'
  exact hne (pixelIndex_inj hr hr' (by omega) (by omega) he).1

theorem spriteTargets_nodup (mem : Memory) (base ox oy : Nat) {n : Nat} (hn : n ≤ 15) :
    (spriteTargets mem base ox oy n).Nodup := by
  have hlt {r : Nat} (hr : r ∈ List.range n) : r < 32 := by
    rw [List.mem_range] at hr
    omega
  rw [spriteTargets_eq, List.nodup_flatMap]
  exact ⟨fun r hr => rowTargets_nodup _ ox oy (hlt hr), List.nodup_range.imp_of_mem
    fun hr hr' hne => rowTargets_disjoint _ _ ox oy (hlt hr) (hlt hr') hne⟩

/-! ## The policies (R524, decision D12 of the spec) -/

theorem collisionBit_self (p : DrawVfPolicy) (b : Bool) (d : Nat) : collisionBit p b b d = b :=
  if_pos rfl

theorem collisionBit_any (any last : Bool) (d : Nat) : collisionBit .any any last d = any :=
  ite_self any

theorem collisionBit_last (any last : Bool) (d : Nat) : collisionBit .last any last d = last := by
  rw [collisionBit]
  split
  · next h => exact h
  · rfl

theorem flagByte_eq_zero_or_one (b : Bool) : flagByte b = 0#8 ∨ flagByte b = 1#8 := by
  cases b
  · exact .inl rfl
  · exact .inr rfl

/-! ## The draw loop on a state -/

section Draw

variable {x y : Reg} {n : Nat} {s : State}

/-- The draw loop is one pass over the state's targets. -/
theorem drawResult_eq_foldl (x y : Reg) (n : Nat) (s : State) :
    drawResult x y n s =
      (drawTargets x y n s).foldl drawHit { fb := s.fb, any := false, last := false } :=
  drawSprite_eq_foldl ..

theorem drawTargets_nodup (hn : n ≤ 15) : (drawTargets x y n s).Nodup :=
  spriteTargets_nodup _ _ _ _ hn

/-- ANY: some target was lit before the draw (R524). -/
theorem drawResult_any (hn : n ≤ 15) :
    (drawResult x y n s).any = (drawTargets x y n s).any (pixelAt s.fb) := by
  rw [drawResult_eq_foldl, foldl_drawHit_any _ _ (drawTargets_nodup hn), Bool.false_or]

/-- LAST: the last target was lit before the draw (R524). -/
theorem drawResult_last (hn : n ≤ 15) :
    (drawResult x y n s).last = ((drawTargets x y n s).getLast?.map (pixelAt s.fb)).getD false := by
  rw [drawResult_eq_foldl, foldl_drawHit_last _ _ (drawTargets_nodup hn)]

/-! ## DXYN in range -/

theorem exec_drw_inRange (h : InRange s n) :
    exec (.drw x y n) s = .next (effect (.drw x y n) s) :=
  checkData_inside h

/-- DXYN negates the targets and no other pixel (R522). -/
theorem effect_drw_pixelAt (hn : n ≤ 15) (k : Pixel) :
    pixelAt (effect (.drw x y n) s).fb k =
      if k ∈ drawTargets x y n s then !pixelAt s.fb k else pixelAt s.fb k := by
  rw [effect, drawEffect_fb, drawResult_eq_foldl]
  split
  · next hk => exact foldl_drawHit_pixelAt_of_mem _ _ k (drawTargets_nodup hn) hk
  · next hk => exact foldl_drawHit_pixelAt_of_notMem _ _ k hk

/-- VF holds the policy's choice between the two collisions (R524). -/
theorem effect_drw_regVF (x y : Reg) (n : Nat) (s : State) :
    (effect (.drw x y n) s).getV regVF =
      flagByte (collisionBit s.params.drawVfPolicy (drawResult x y n s).any
        (drawResult x y n s).last s.drawn) :=
  (drawEffect_getV _ s regVF).trans (if_pos rfl)

/-- The targets are decided by memory, I and the two origin registers. -/
theorem drawTargets_congr {t : State} (hmem : t.mem = s.mem) (hidx : t.idx = s.idx)
    (hx : t.getV x = s.getV x) (hy : t.getV y = s.getV y) :
    drawTargets x y n t = drawTargets x y n s := by
  rw [drawTargets, drawTargets, State.dataBase, State.dataBase, hmem, hidx, hx, hy]

/-- A draw whose targets, at least one, are all lit collides under every policy (R524). -/
theorem effect_drw_regVF_of_lit (hn : n ≤ 15) (hne : drawTargets x y n s ≠ [])
    (hlit : ∀ k ∈ drawTargets x y n s, pixelAt s.fb k = true) :
    (effect (.drw x y n) s).getV regVF = 1#8 := by
  have hlast := List.getLast?_eq_some_getLast hne
  have hmem := List.getLast_mem hne
  have hany : (drawResult x y n s).any = true := by
    rw [drawResult_any hn]
    exact List.any_eq_true.2 ⟨_, hmem, hlit _ hmem⟩
  have hlst : (drawResult x y n s).last = true := by
    rw [drawResult_last hn, hlast, Option.map_some, Option.getD_some, hlit _ hmem]
  rw [effect_drw_regVF, hany, hlst, collisionBit_self]
  rfl

end Draw

/-! ## The obligations -/

/-- Settles O30: the pixels hit are the targets, each of which the draw negates once. -/
theorem drawPixels : Obligations.DrawPixels := by
  intro x y n s hn h
  refine ⟨_, exec_drw_inRange h, effect_completed rfl nofun nofun, rfl, fun k hit hhit => ?_⟩
  have hmem : hit ↔ k ∈ drawTargets x y n s := by
    rw [hhit, drawTargets, mem_spriteTargets]
    simp only [Fin.ext_iff]
    rfl
  rw [effect_drw_pixelAt hn, hmem]
  exact ⟨fun hin => if_pos hin, fun hout => if_neg hout⟩

/-- Settles O31: VF is the policy's choice of the two collisions with the buffer before the draw. -/
theorem drawCollisionFlag : Obligations.DrawCollisionFlag := by
  intro x y n s hn h
  refine ⟨_, exec_drw_inRange h, ?_, ?_, fun r hr => effect_getV hr⟩
  · intro any last hany hlast
    rw [effect_drw_regVF, drawResult_any hn, drawResult_last hn, ← hany, ← hlast]
    refine ⟨fun hp => ?_, fun hp => ?_, fun he => ?_⟩
    · rw [hp, collisionBit_any, flagByte]
    · rw [hp, collisionBit_last, flagByte]
    · rw [← he, collisionBit_self, flagByte]
  · rw [effect_drw_regVF]
    exact flagByte_eq_zero_or_one _

/-- Settles O33: both draws have the same targets, so each is negated twice; one that was dark is lit
before the second draw. -/
theorem drawTwiceRestores : Obligations.DrawTwiceRestores := by
  intro x y n s t u _ hn hbase hst hx hy htu
  obtain rfl : effect (.drw x y n) s = t := by
    simpa [exec_drw_inRange (.inl hbase)] using hst
  obtain rfl : effect (.drw x y n) (effect (.drw x y n) s) = u := by
    simpa [exec_drw_inRange (s := effect (.drw x y n) s) (.inl hbase)] using htu
  have hsame : drawTargets x y n (effect (.drw x y n) s) = drawTargets x y n s :=
    drawTargets_congr rfl rfl hx hy
  refine ⟨fun k => ?_, fun hne hdark => effect_drw_regVF_of_lit hn (hsame ▸ hne) fun k hk => ?_⟩
  · rw [effect_drw_pixelAt hn, effect_drw_pixelAt hn, hsame]
    split
    · exact Bool.not_not _
    · rfl
  · rw [hsame] at hk
    rw [effect_drw_pixelAt hn, if_pos hk, hdark k hk, Bool.not_false]

end Sys2Proof.Machine

/-! The timer transfers (48_misc.md R580 to R582), and the key wait: looks at the host's answer until
there is one (48_misc.md R583, 60_exceptions.md R727). -/

namespace Sys2Proof.Machine

/-! ## The timers -/

section Timers

variable (x : Reg) (s : State)

theorem exec_ldVxDt : exec (.ldVxDt x) s = .next (effect (.ldVxDt x) s) := rfl

theorem exec_ldDtVx : exec (.ldDtVx x) s = .next ((s.setDt (s.getV x)).complete s.seqPc) := rfl

theorem exec_ldStVx : exec (.ldStVx x) s = .next ((s.setSt (s.getV x)).complete s.seqPc) := rfl

end Timers

/-- Settles O35: FX07 writes V[x] alone, FX15 and FX18 one timer each. -/
theorem timerTransferEffect : Obligations.TimerTransferEffect :=
  ⟨fun x s => ⟨_, exec_ldVxDt x s, effect_completed rfl nofun nofun,
      (State.getV_setV s x x s.dt).trans (if_pos rfl), fun _ hr => effect_getV hr, rfl, rfl⟩,
    exec_ldDtVx, exec_ldStVx⟩

/-! ## One look at the host's answer -/

theorem exec_ldVxK (x : Reg) (s : State) :
    exec (.ldVxK x) s = .next (s.setLife (.waitingKey x)) := rfl

/-- A key number is the same as a byte. -/
theorem key_setWidth_toNat (k : Key) : (k.setWidth 8 : Byte).toNat = k.toNat :=
  BitVec.toNat_setWidth_of_le (by decide)

/-- The answer completes FX0A as R583 says, whatever life and count the wait has left. -/
theorem keyAnswer_keyAnswered (x : Reg) (k : Key) (s : State) (l : Life) (n : Nat) :
    KeyAnswered x k s (keyAnswer x k ((s.setLife l).consume n)) := by
  refine ⟨?_, fun r hr => ?_, rfl⟩
  · rw [keyAnswer_getV, if_pos rfl, key_setWidth_toNat]
  · rw [keyAnswer_getV, if_neg hr]
    rfl

section Waiting

variable {x : Reg} {s : State} (hl : s.life = .waitingKey x)
include hl

theorem step_of_waiting : step s = .next (keyWait x s) := by
  rw [step, hl]

theorem step_of_unanswered (h : Config.waitForKeyPress s.drawn = none) :
    step s = .next (s.consume 1) := by
  rw [step_of_waiting hl, keyWait, h]

theorem step_of_answered {k : Key} (h : Config.waitForKeyPress s.drawn = some k) :
    step s = .next (keyAnswer x k (s.consume 1)) := by
  rw [step_of_waiting hl, keyWait, h]

end Waiting

/-! ## Any number of looks -/

/-- A run that begins with a step goes on from the state the step answers. -/
theorem run_succ_of_step {s u : State} (h : step s = .next u) (n : Nat) :
    Sys2Proof.core.run (n + 1) s = Sys2Proof.core.run n u := by
  have hcore : Sys2Proof.core.step s = .next u := h
  simp only [Host.Core.run, hcore]

theorem State.consume_consume (s : State) (m n : Nat) :
    (s.consume m).consume n = s.consume (m + n) := by
  simp only [State.consume, Nat.add_assoc]

/-- Looks without an answer only count. -/
theorem run_add_of_unanswered {x : Reg} {n : Nat} {s : State} (hl : s.life = .waitingKey x)
    (h : ∀ j < n, Config.waitForKeyPress (s.drawn + j) = none) (m : Nat) :
    Sys2Proof.core.run (n + m) s = Sys2Proof.core.run m (s.consume n) := by
  induction n generalizing s with
  | zero => rw [Nat.zero_add]; rfl
  | succ n ih =>
    have hstep : step s = .next (s.consume 1) := step_of_unanswered hl (h 0 n.succ_pos)
    have hrest : ∀ j < n, Config.waitForKeyPress ((s.consume 1).drawn + j) = none := fun j hj => by
      rw [State.consume_drawn, Nat.add_assoc, Nat.add_comm 1]
      exact h (j + 1) (Nat.succ_lt_succ hj)
    calc Sys2Proof.core.run (n + 1 + m) s
        = Sys2Proof.core.run (n + m + 1) s := by rw [Nat.add_right_comm]
      _ = Sys2Proof.core.run (n + m) (s.consume 1) := run_succ_of_step hstep _
      _ = Sys2Proof.core.run m ((s.consume 1).consume n) := ih hl hrest
      _ = Sys2Proof.core.run m (s.consume (n + 1)) := by
        rw [State.consume_consume, Nat.add_comm 1]

/-- The first answer, after m looks without one, is taken by the step that finds it. -/
theorem run_of_answered {x : Reg} {m : Nat} {k : Key} {s : State} (hl : s.life = .waitingKey x)
    (hnone : ∀ j < m, Config.waitForKeyPress (s.drawn + j) = none)
    (hk : Config.waitForKeyPress (s.drawn + m) = some k) :
    Sys2Proof.core.run (m + 1) s = .next (keyAnswer x k (s.consume (m + 1))) := by
  have hstep : step (s.consume m) = .next (keyAnswer x k ((s.consume m).consume 1)) :=
    step_of_answered (s := s.consume m) hl hk
  rw [run_add_of_unanswered hl hnone, run_succ_of_step hstep, State.consume_consume]
  rfl

/-- Among the first n values of f there is none, or a first one. -/
theorem forall_none_or_first_some {α : Type} (f : Nat → Option α) (n : Nat) :
    (∀ m < n, f m = none) ∨ ∃ m < n, ∃ k, (∀ j < m, f j = none) ∧ f m = some k := by
  induction n with
  | zero => exact .inl nofun
  | succ n ih =>
    obtain hnone | ⟨m, hm, hfirst⟩ := ih
    · cases hn : f n with
      | none =>
        exact .inl fun m hm => (Nat.lt_succ_iff_lt_or_eq.1 hm).elim (hnone m) (· ▸ hn)
      | some k => exact .inr ⟨n, n.lt_succ_self, k, hnone, hn⟩
    · exact .inr ⟨m, Nat.lt_succ_of_lt hm, hfirst⟩

/-- Settles O36: the steps after FX0A count looks up to the host's first answer, which completes it. -/
theorem keyWaitEffect : Obligations.KeyWaitEffect := by
  refine ⟨fun x s => ⟨_, exec_ldVxK x s, rfl, fun n => ?_⟩, fun x s hl => ?_⟩
  · have hl : (s.setLife (.waitingKey x)).life = .waitingKey x := rfl
    obtain hnone | ⟨m, hm, k, hnone, hk⟩ :=
      forall_none_or_first_some (fun m => Config.waitForKeyPress (s.drawn + m)) n
    · exact .inl ⟨hnone, run_add_of_unanswered hl hnone 0⟩
    · exact .inr ⟨m, hm, k, _, hnone, hk, run_of_answered hl hnone hk,
        keyAnswer_keyAnswered x k s (.waitingKey x) (m + 1), rfl⟩
  · cases h : Config.waitForKeyPress s.drawn with
    | none => exact .inl ⟨rfl, step_of_unanswered hl h⟩
    | some k =>
      exact .inr ⟨k, _, rfl, step_of_answered hl h, keyAnswer_keyAnswered x k s s.life 1, rfl⟩

end Sys2Proof.Machine

/-! The key wait and the ends of a run, the frame end and the faults as steps (60_exceptions.md R702,
R706, R707, R714, R720 to R725, R803). -/

namespace Sys2Proof.Machine

/-! ## What a step can do to `life` (R714) -/

theorem step_of_faulted {s : State} {f : FaultRecord} (hl : s.life = .faulted f) :
    step s = .fault (.faulted f) := by
  rw [step, hl]

theorem step_of_stopped {s : State} (hl : s.life = .stopped) : step s = .fault .stopped := by
  rw [step, hl]

theorem step_of_halted {s : State} (hl : s.life = .halted) : step s = schedule s := by
  rw [step, hl]

/-- Outside Batch a machine that is Ready or Halted takes the scheduler's steps. -/
theorem step_outside_batch {s : State} (hl : s.life = .ready ∨ s.life = .halted)
    (hp : s.phase ≠ .batch) : step s = schedule s := by
  have hb : batchOpen s = false := by simp [batchOpen, hp]
  obtain hl | hl := hl
  · simp only [step, hl, hb, Bool.false_eq_true, if_false]
  · exact step_of_halted hl

/-- Of the instructions only HALT and FX0A leave another life than they find. -/
theorem effect_life_cases (i : Instr) (s : State) :
    (effect i s).life = s.life ∨ (effect i s).life = .halted ∨
      ∃ x, i = .ldVxK x ∧ (effect i s).life = .waitingKey x := by
  by_cases hk : ∃ x, i = .ldVxK x
  · obtain ⟨x, rfl⟩ := hk
    exact .inr (.inr ⟨x, rfl, rfl⟩)
  by_cases hh : i = .halt
  · subst hh
    exact .inr (.inl rfl)
  · exact .inl (effect_life hh (not_exists.1 hk))

theorem schedule_life {s t : State} (h : schedule s = .next t) :
    t.life = s.life ∨ t.life = .stopped := by
  obtain ⟨-, rfl⟩ | ⟨-, rfl⟩ | ⟨-, rfl⟩ | ⟨-, rfl⟩ | ⟨-, -, -, rfl⟩ | ⟨-, -, -, rfl⟩ :=
    schedule_updates h
  case inr.inr.inr.inr.inl => exact .inr rfl
  all_goals exact .inl rfl

/-- A step takes a fault, or enters the key wait by an FX0A, or leaves life as it was or at Ready, Halted
or Stopped. -/
theorem step_life {s t : State} (h : step s = .next t) :
    (∃ f, t = s.raise f) ∨ (∃ x, fetch s = .ok (.ldVxK x) ∧ t.life = .waitingKey x) ∨
      t.life = s.life ∨ t.life = .ready ∨ t.life = .halted ∨ t.life = .stopped := by
  obtain ⟨i, ⟨-, -, hf⟩, he⟩ | hr | hs | ⟨x, rfl⟩ := step_runs_or h
  · obtain ⟨-, hr⟩ | ⟨-, rfl⟩ := exec_next he
    · exact .inl hr
    · obtain hl | hl | ⟨x, rfl, hl⟩ := effect_life_cases i s
      · exact .inr (.inr (.inl hl))
      · exact .inr (.inr (.inr (.inr (.inl hl))))
      · exact .inr (.inl ⟨x, hf, hl⟩)
  · exact .inl hr
  · obtain hl | hl := schedule_life hs
    · exact .inr (.inr (.inl hl))
    · exact .inr (.inr (.inr (.inr (.inr hl))))
  · obtain e | ⟨k, e⟩ := keyWait_cases x s <;> rw [e]
    · exact .inr (.inr (.inl rfl))
    · exact .inr (.inr (.inr (.inl rfl)))

/-- The step of phase Sleep ends the frame or the run, and changes only the fields that say so
(R720, R724, R725). -/
theorem step_sleep_eq {s t : State} (hl : s.life = .ready ∨ s.life = .halted)
    (hp : s.phase = .sleep) (h : step s = .next t) :
    t = { s with life := t.life, slot := t.slot, phase := t.phase } := by
  have hs : step s = sleepPhase s := by rw [step_outside_batch hl (by simp [hp]), schedule, hp]
  obtain ⟨-, ⟨-, rfl⟩ | ⟨-, rfl⟩⟩ := sleepPhase_cases (hs ▸ h) <;> rfl

/-- Settles O11: the wait ends by the host's answer, `step_life` says how it begins, and the states that
end a run have the scheduler's steps or none. -/
theorem waitAndStopStates : Obligations.WaitAndStopStates := by
  refine ⟨fun s x hl => ?_, fun s t x h ht => ?_, fun s t hl h => ?_, fun _ _ => step_of_faulted,
    fun _ => step_of_stopped, fun _ _ => step_sleep_eq⟩
  · cases hk : Config.waitForKeyPress s.drawn with
    | none => exact .inl ⟨rfl, step_of_unanswered hl hk⟩
    | some k => exact .inr ⟨k, rfl, step_of_answered hl hk⟩
  · obtain ⟨f, rfl⟩ | ⟨y, hf, hy⟩ | hl | hl | hl | hl := step_life h
    · cases ht
    · obtain rfl : y = x := by simpa [hy] using ht
      exact .inr hf
    · exact .inl (hl.symm.trans ht)
    all_goals simp [hl] at ht
  · exact (schedule_of_halted hl (step_of_halted hl ▸ h)).1

/-! ## Faults (R702, R706, R707) -/

/-- Settles O45: of the steps only a fault's leaves life Faulted, and a Faulted machine has no step. -/
theorem faultsArePrecise : Obligations.FaultsArePrecise := by
  intro s t f h ht
  refine ⟨?_, step_of_faulted ht⟩
  obtain ⟨f', rfl⟩ | ⟨x, -, hl⟩ | hl | hl | hl | hl := step_life h
  · obtain rfl : f' = f := by simpa using ht
    rfl
  · simp [hl] at ht
  · simp [step_of_faulted (hl.symm.trans ht)] at h
  all_goals simp [hl] at ht

/-- A fetch that fails is the step's fault. -/
theorem step_of_fetch_error {s : State} {f : FaultRecord} (hl : s.life = .ready)
    (hb : batchOpen s = true) (hf : fetch s = .error f) : step s = .next (s.raise f) := by
  simp only [step, hl, hb, if_true, runInstr, hf]

/-- The fetch of an illegal word faults with it (R707). -/
theorem fetch_illegal {s : State} {w : Word} (hpc : s.pc.toNat ≤ lastFetch)
    (hw : w = wordOfBytes (s.mem.read s.pc.toNat) (s.mem.read (s.pc.toNat + 1)))
    (hd : decodeWord w = none) : fetch s = .error (.illegalInstruction s.pc w) := by
  subst hw
  rw [fetch_inside hpc, hd]

/-- Settles O9: both faults are the fetch's, the bounds before the word. -/
theorem fetchFaults : Obligations.FetchFaults := by
  intro s hl hp hslot
  have hb : batchOpen s = true := batchOpen_iff.2 ⟨hp, hslot⟩
  exact ⟨fun hpc => step_of_fetch_error hl hb (fetch_outside hpc),
    fun w hpc hw hd => step_of_fetch_error hl hb (fetch_illegal hpc hw hd)⟩

/-! ## The end of a frame (R720 to R725) -/

/-- Settles O42: the step in phase Decrement is the scheduler's. -/
theorem decrementEffect : Obligations.DecrementEffect := fun s hl hp =>
  ⟨_, step_decrement hl hp, decTimer_toNat s.dt, decTimer_toNat s.st, rfl⟩

/-- No instruction is left in the frame: its slots are used up, or HALT ran. -/
def FrameDone (s : State) : Prop := (s.life = .ready ∧ s.slot = batch) ∨ s.life = .halted

/-- What a frame's end leaves before Sleep. -/
def framePhases (s : State) : State := decrementPhase (pollPhase (pushPhase (endBatch s)))

theorem step_of_frameDone {s : State} (h : FrameDone s) : step s = schedule s := by
  obtain ⟨hl, hslot⟩ | hl := h
  · have hb : batchOpen s = false := by simp [batchOpen, hslot]
    simp only [step, hl, hb, Bool.false_eq_true, if_false]
  · exact step_of_halted hl

theorem framePhases_eq (s : State) :
    framePhases s =
      { s with
        frameOut := if s.dirty then some s.fb else s.frameOut
        dirty := false
        stopRequested := s.stopRequested || Config.pollShutdownRequested s.drawn
        drawn := s.drawn + 1
        dt := decTimer s.dt
        st := decTimer s.st
        phase := .sleep } := by
  rw [framePhases, pushPhase_eq]
  rfl

/-- Push, Poll and Decrement take one step each after the step that ends Batch (log 9). -/
theorem run_framePhases {s : State} (h : FrameDone s) (hp : s.phase = .batch) (n : Nat) :
    Sys2Proof.core.run (n + 4) s = Sys2Proof.core.run n (framePhases s) := by
  have hbatch : step s = .next (endBatch s) := by rw [step_of_frameDone h, schedule, hp]
  have hpush : step (endBatch s) = .next (pushPhase (endBatch s)) := step_of_frameDone h
  have hpoll : step (pushPhase (endBatch s)) = .next (pollPhase (pushPhase (endBatch s))) := by
    rw [pushPhase_eq]
    exact step_of_frameDone h
  have hdec : step (pollPhase (pushPhase (endBatch s))) = .next (framePhases s) := by
    rw [framePhases, pushPhase_eq]
    exact step_of_frameDone h
  rw [run_succ_of_step hbatch, run_succ_of_step hpush, run_succ_of_step hpoll,
    run_succ_of_step hdec]

/-- In Sleep the run of a Halted machine has ended (R803). -/
theorem step_sleep_of_halted {s : State} (hl : s.life = .halted) (hp : s.phase = .sleep) :
    step s = .fault .halted := by
  rw [step_of_halted hl, schedule, hp]
  exact if_pos hl

/-- Sleep after a frame of a Ready machine stops it if a shutdown was requested, else begins the next
frame (R720, R725). -/
theorem sleepPhase_of_ready {s : State} (hl : s.life = .ready) :
    sleepPhase s = .next (if s.stopRequested then s.setLife .stopped else nextFrame s) := by
  rw [sleepPhase, if_neg (by simp [hl])]
  split <;> rfl

/-- The fifth step of a frame's end, when the machine is Ready. -/
theorem run_frameEnd {s : State} (hl : s.life = .ready) (hp : s.phase = .batch)
    (hslot : s.slot = batch) :
    Sys2Proof.core.run 5 s =
      .next (if (framePhases s).stopRequested then (framePhases s).setLife .stopped
        else nextFrame (framePhases s)) := by
  have hlife : (framePhases s).life = .ready := by rw [framePhases_eq]; exact hl
  have hsleep : step (framePhases s) = sleepPhase (framePhases s) := by
    rw [framePhases_eq]
    exact step_of_frameDone (.inl ⟨hl, hslot⟩)
  rw [run_framePhases (.inl ⟨hl, hslot⟩) hp 1,
    run_succ_of_step (hsleep.trans (sleepPhase_of_ready hlife))]
  rfl

/-- Settles O43: the host's answer to Poll is the one request that Sleep can see. -/
theorem frameEnd : Obligations.FrameEnd := by
  intro s hl hp hslot hreq
  have hrun := run_frameEnd hl hp hslot
  rw [framePhases_eq, hreq, Bool.false_or] at hrun
  cases hq : Config.pollShutdownRequested s.drawn with
  | false =>
    rw [hq] at hrun
    exact ⟨_, hrun, rfl, rfl, decTimer_toNat s.dt, decTimer_toNat s.st,
      fun _ => ⟨hl, rfl, rfl, rfl⟩, nofun, rfl⟩
  | true =>
    rw [hq] at hrun
    exact ⟨_, hrun, rfl, rfl, decTimer_toNat s.dt, decTimer_toNat s.st, nofun,
      fun _ => ⟨rfl, rfl⟩, rfl⟩

/-- Settles O44: a Halted machine takes the same four steps, and in Sleep its run has ended. -/
theorem haltedFrameEnd : Obligations.HaltedFrameEnd := by
  intro s hl hp
  have hrun := run_framePhases (.inr hl) hp 0
  rw [framePhases_eq] at hrun
  refine ⟨_, hrun, .inl ⟨hl, rfl⟩, hl, rfl, rfl, decTimer_toNat s.dt, decTimer_toNat s.st, rfl, rfl,
    rfl, rfl, step_sleep_of_halted hl rfl⟩

/-! ## The tone (R745, decision D26 of the spec) -/

theorem toneOn_iff {s t : State} : toneOn s t = true ↔ s.st = 0#8 ∧ t.st ≠ 0#8 := by
  simp [toneOn, tone]

theorem toneOff_iff {s t : State} : toneOff s t = true ↔ s.st ≠ 0#8 ∧ t.st = 0#8 := by
  simp [toneOff, tone]

theorem decTimer_zero : decTimer 0#8 = 0#8 := rfl

/-- A timer that Decrement stops was at 1. -/
theorem eq_one_of_decTimer {b : Byte} (hb : b ≠ 0#8) (h : decTimer b = 0#8) : b = 1#8 := by
  have hdec := decTimer_toNat b
  rw [h] at hdec
  bv_omega

theorem tone_edges_of_st_eq {s t : State} (h : t.st = s.st) :
    toneOn s t = false ∧ toneOff s t = false := by
  simp [toneOn, toneOff, tone, h]

/-- A step leaves ST, or sets it by FX18, or decrements it. -/
theorem step_st {s t : State} (h : step s = .next t) :
    t.st = s.st ∨ (∃ x, fetch s = .ok (.ldStVx x) ∧ t.st = s.getV x) ∨
      (s.phase = .decrement ∧ t.st = decTimer s.st) := by
  obtain ⟨i, ⟨-, -, hf⟩, he⟩ | ⟨-, hst⟩ | ⟨hp, rfl⟩ := step_runs_or_timers h
  · by_cases hi : Touches i s .st
    · obtain ⟨x, rfl⟩ := hi
      injection he with he
      exact .inr (.inl ⟨x, hf, by rw [← he]; rfl⟩)
    · exact .inl (exec_keepsFrame i s t he .st hi)
  · exact .inl hst
  · exact .inr (.inr ⟨hp, rfl⟩)

/-- Settles O49: FX18 makes both edges by its V[x], and Decrement only the one from 1 to 0. -/
theorem toneEdges : Obligations.ToneEdges := by
  intro s t h
  obtain hst | ⟨x, hf, hst⟩ | ⟨hp, hst⟩ := step_st h
  · obtain ⟨hon, hoff⟩ := tone_edges_of_st_eq hst
    simp [hon, hoff]
  · rw [toneOn_iff, toneOff_iff, hst]
    exact ⟨fun ⟨h0, hv⟩ => ⟨x, hf, h0, hv⟩, fun ⟨_, hv⟩ => .inl ⟨x, hf, hv⟩⟩
  · rw [toneOn_iff, toneOff_iff, hst]
    refine ⟨fun ⟨h0, hne⟩ => (hne ?_).elim, fun ⟨hne, h0⟩ => .inr ⟨hp, eq_one_of_decTimer hne h0⟩⟩
    rw [h0, decTimer_zero]

end Sys2Proof.Machine

/-! The loader (20_memory.md R209, R210; 70_reset_and_hazards.md R801): what it answers in each case, and
that it keeps the invariant. -/

namespace Sys2Proof.Machine

section Load

variable {s : State}

theorem load_refused (image : Option (List Byte)) (hl : s.life ≠ .unloaded) :
    load image s = (.refused, s) :=
  if_neg hl

theorem load_unreadable (hl : s.life = .unloaded) : load none s = (.failure, s) :=
  if_pos hl

theorem load_oversized {bytes : List Byte} (hl : s.life = .unloaded)
    (h : maxImage < bytes.length) : load (some bytes) s = (.failure, s) := by
  rw [load, if_pos hl]
  exact if_pos h

theorem load_fitting {bytes : List Byte} (hl : s.life = .unloaded)
    (h : bytes.length ≤ maxImage) :
    load (some bytes) s =
      (.success, { s with mem := s.mem.writeList loadBase bytes, life := .ready }) := by
  rw [load, if_pos hl]
  exact if_neg (Nat.not_lt.2 h)

/-- A load fails and changes nothing, or succeeds. -/
theorem load_of_unloaded (image : Option (List Byte)) (hl : s.life = .unloaded) :
    load image s = (.failure, s) ∨ ∃ t, load image s = (.success, t) := by
  cases image with
  | none => exact .inl (load_unreadable hl)
  | some bytes =>
    by_cases h : maxImage < bytes.length
    · exact .inl (load_oversized hl h)
    · exact .inr ⟨_, load_fitting hl (Nat.le_of_not_lt h)⟩

end Load

/-- Settles O56: the image's bytes are those written from 0x200. -/
theorem loadEffect : Obligations.LoadEffect := by
  refine ⟨fun s bytes hl hlen => ⟨_, load_fitting hl hlen, rfl, fun k hk => ?_, fun a ha => ?_, rfl⟩,
    fun s bytes => load_oversized, fun s => load_unreadable, fun s image => load_refused image⟩
  · exact Memory.read_writeList_add s.mem loadBase hk
  · refine (Memory.read_writeList s.mem loadBase a bytes).trans (if_neg fun ⟨hlo, hhi⟩ => ?_)
    exact ha.elim (Nat.not_lt_of_le hlo) (Nat.not_le_of_lt hhi)

/-- Settles O58: a load that does not succeed leaves the state it was offered in. -/
theorem launchMeetsInvariant : Obligations.LaunchMeetsInvariant := by
  refine ⟨State.construct_inv, fun image s h => ?_⟩
  by_cases hl : s.life = .unloaded
  · obtain hfail | ⟨t, hload⟩ := load_of_unloaded image hl
    · rw [hfail]
      exact h
    · rw [hload]
      exact load_inv h hload
  · rw [load_refused image hl]
    exact h

/-- Settles O57: reset is the construction with the default launch. -/
theorem resetMeetsInvariant : Obligations.ResetMeetsInvariant := by
  have hreset : State.construct Launch.default = State.reset := resetIsDefaultConstruction
  rw [Obligations.ResetMeetsInvariant, ← hreset]
  exact State.construct_inv Launch.default

theorem step_of_unloaded {s : State} (hl : s.life = .unloaded) : step s = .refused .unloaded := by
  rw [step, hl]

/-- With a slot left in its Batch a Ready machine runs an instruction (30_encoding.md R300). -/
theorem step_of_batchOpen {s : State} (hl : s.life = .ready) (hb : batchOpen s = true) :
    step s = runInstr s := by
  simp only [step, hl, hb, if_true]

/-- Settles O10: a load fails and leaves the construction, or leaves it Ready in the first slot. -/
theorem noStepBeforeLoad : Obligations.NoStepBeforeLoad := by
  refine ⟨fun s => step_of_unloaded, fun l image r t => ⟨rfl, fun h => ?_⟩⟩
  obtain hfail | ⟨u, hload⟩ := load_of_unloaded image (s := State.construct l) rfl
  · obtain ⟨rfl, rfl⟩ := Prod.mk.inj (hfail.symm.trans h)
    exact ⟨.inl rfl, fun _ => rfl, nofun⟩
  · obtain ⟨rfl, rfl⟩ := Prod.mk.inj (hload.symm.trans h)
    obtain ⟨-, bytes, -, -, rfl⟩ := load_success h
    exact ⟨.inr rfl, nofun, fun _ => ⟨rfl, rfl, rfl, rfl, step_of_batchOpen rfl rfl⟩⟩

end Sys2Proof.Machine

/-! The illegal words (30_encoding.md R312), class by class as the decoder's branches are. -/

namespace Sys2Proof

theorem decodeClass0_eq_none_iff (w : Word) :
    decodeClass0 w = none ↔ w ≠ 0x0000#16 ∧ w ≠ 0x00E0#16 ∧ w ≠ 0x00EE#16 := by
  unfold decodeClass0
  split_ifs <;> simp [*]

theorem decodeClass8_eq_none_iff (w : Word) :
    decodeClass8 w = none ↔
      fieldN w ∈ [0x8#4, 0x9#4, 0xA#4, 0xB#4, 0xC#4, 0xD#4, 0xF#4] := by
  have hmem : fieldN w ∈ [0x8#4, 0x9#4, 0xA#4, 0xB#4, 0xC#4, 0xD#4, 0xF#4] ↔
      (fieldN w).toNat ∈ [0x8, 0x9, 0xA, 0xB, 0xC, 0xD, 0xF] := by simp [← BitVec.toNat_inj]
  rw [hmem, decodeClass8]
  split
  case h_10 =>
    have hlt := (fieldN w).isLt
    simp only [imp_false, List.mem_cons, List.not_mem_nil, true_iff] at *
    omega
  all_goals
    next hn => simp [hn]

theorem decodeClassE_eq_none_iff (w : Word) :
    decodeClassE w = none ↔ fieldNN w ∉ [0x9E#8, 0xA1#8] := by
  unfold decodeClassE
  split_ifs <;> simp [*]

theorem decodeClassF_eq_none_iff (w : Word) :
    decodeClassF w = none ↔
      fieldNN w ∉ [0x07#8, 0x0A#8, 0x15#8, 0x18#8, 0x1E#8, 0x29#8, 0x33#8, 0x55#8, 0x65#8] := by
  unfold decodeClassF
  split_ifs <;> simp [*]

/-- Settles O5: the classes with an illegal word are those whose branch of the decoder tests more than
the class.  The cases are the branches in order: h_1 is class 0, h_16 class F. -/
theorem illegalWordsByClass : Obligations.IllegalWordsByClass := by
  intro w
  unfold decodeWord
  split
  case h_1 hc => simp [BitVec.eq_of_toNat_eq (y := 0x0#4) hc, decodeClass0_eq_none_iff]
  case h_9 hc => simp [BitVec.eq_of_toNat_eq (y := 0x8#4) hc, decodeClass8_eq_none_iff]
  case h_15 hc => simp [BitVec.eq_of_toNat_eq (y := 0xE#4) hc, decodeClassE_eq_none_iff]
  case h_16 =>
    have hlt := (fieldC w).isLt
    have hc : (fieldC w).toNat = 0xF := by
      simp only [imp_false] at *
      omega
    simp [BitVec.eq_of_toNat_eq (y := 0xF#4) hc, decodeClassF_eq_none_iff]
  case h_6 hc => simp [BitVec.eq_of_toNat_eq (y := 0x5#4) hc]
  case h_10 hc => simp [BitVec.eq_of_toNat_eq (y := 0x9#4) hc]
  all_goals
    next hc => simp [← BitVec.toNat_inj, hc]

end Sys2Proof

/-! The remaining effects: HALT and RET (41_control.md R400, R402), the immediate add and the logic
operations (43_immediate.md R441; 44_alu.md R463 to R465), RND (45_index_jump_random.md R502), the key
tests (47_keys.md R560 to R562), and the bulk transfers there and back and out of range (46_draw.md R521;
48_misc.md R590 to R592). -/

namespace Sys2Proof.Machine

/-! ## HALT and RET -/

theorem exec_halt (s : State) : exec .halt s = .next ((s.setLife .halted).complete s.seqPc) := rfl

/-- Settles O12: HALT sets life and completes at the next PC. -/
theorem haltEffect : Obligations.HaltEffect := exec_halt

theorem exec_ret_nil {s : State} (h : s.stack = []) :
    exec .ret s = .next (s.raise (.stackUnderflow s.pc (encodeWord .ret))) := by
  rw [exec, execRet, h]

/-- Settles O14: the stack's two shapes are the two clauses. -/
theorem returnEffect : Obligations.ReturnEffect :=
  ⟨fun _ _ _ h => exec_ret_cons h, fun _ h => exec_ret_nil h⟩

/-! ## Writes of one register -/

/-- Settles O20: the byte sum is the sum modulo 256. -/
theorem addImmediateEffect : Obligations.AddImmediateEffect := by
  intro x nn s
  obtain ⟨t, he, hdone, hres, hframe⟩ := writeReg_effect x (s.getV x + nn) s
  refine ⟨t, he, hdone, ?_, hframe⟩
  rw [hres, BitVec.toNat_add]

/-- Writing a byte given bit by bit. -/
theorem writeReg_bits {b : Byte} {bit : Nat → Bool} (x : Reg) (s : State)
    (hb : ∀ j, b.getLsbD j = bit j) :
    ∃ t, writeReg x b s = .next t ∧ Completed s t (s.pc + 2#16) ∧
      (∀ j, (t.getV x).getLsbD j = bit j) ∧ ∀ r, r ≠ x → t.getV r = s.getV r := by
  obtain ⟨t, he, hdone, hres, hframe⟩ := writeReg_effect x b s
  exact ⟨t, he, hdone, fun j => by rw [hres, hb], hframe⟩

/-- Settles O22: each operation on bytes is the operation on their bits. -/
theorem logicEffect : Obligations.LogicEffect :=
  ⟨fun x _ s => writeReg_bits x s fun _ => BitVec.getLsbD_or,
    fun x _ s => writeReg_bits x s fun _ => BitVec.getLsbD_and,
    fun x _ s => writeReg_bits x s fun _ => BitVec.getLsbD_xor⟩

theorem exec_rnd (x : Reg) (nn : Byte) (s : State) :
    exec (.rnd x nn) s = .next (effect (.rnd x nn) s) := rfl

theorem effect_rnd_getV (x : Reg) (nn : Byte) (s : State) :
    (effect (.rnd x nn) s).getV x = Config.rand s.drawn &&& nn :=
  (State.getV_setV (s.consume 1) x x _).trans (if_pos rfl)

/-- Settles O29: V[x] is the masked byte, and the rest is RND's frame. -/
theorem randomEffect : Obligations.RandomEffect := by
  intro x nn s
  refine ⟨_, exec_rnd x nn s, effect_completed rfl nofun nofun, fun j => ?_,
    fun _ hr => effect_getV hr, Nat.lt_succ_self s.drawn⟩
  rw [effect_rnd_getV, BitVec.getLsbD_and]

/-! ## The key tests -/

section KeyTest

variable {i : Instr} {x : Reg} {w : Bool} {s : State}

theorem keyTest_of_le (h : (s.getV x).toNat ≤ 15) :
    keyTest i x w s =
      skipIf (Config.isKeyPressed s.drawn ((s.getV x).setWidth 4) == w) (s.consume 1) := by
  obtain ⟨hlt, -⟩ | ⟨-, he⟩ := keyTest_cases i x w s
  · exact (Nat.not_lt.2 h hlt).elim
  · exact he

theorem keyTest_of_lt (h : 15 < (s.getV x).toNat) :
    keyTest i x w s = .next (s.raise (.keyOutOfRange s.pc (encodeWord i) (s.getV x))) := by
  obtain ⟨-, he⟩ | ⟨hle, -⟩ := keyTest_cases i x w s
  · exact he
  · exact (Nat.not_lt.2 hle h).elim

end KeyTest

/-- Settles O34: SKP skips when the answer is true and SKNP when it is not. -/
theorem keyTestEffect : Obligations.KeyTestEffect := by
  refine ⟨fun x s h => ⟨_, rfl, ?_, ?_⟩, fun x s h => ⟨keyTest_of_lt h, keyTest_of_lt h⟩⟩
  · exact (keyTest_of_le h).trans (skipIf_of_iff (s.consume 1) beq_iff_eq)
  · refine (keyTest_of_le h).trans ?_
    rw [skipIf_of_iff (s.consume 1) (beq_iff_eq.trans Bool.eq_false_iff)]
    simp only [ne_eq, ite_not]
    rfl

/-! ## Data addresses -/

/-- Settles O40: FX65 reads at I + r the V[r] that FX55 stored there. -/
theorem storeThenLoadRestores : Obligations.StoreThenLoadRestores := by
  intro x s t u hin hst hmem hidx
  obtain rfl : effect (.storeRegs x) s = t := by
    simpa [exec_storeRegs_inRange x (.inl hin)] using hst
  have hinu : InRange u (x.toNat + 1) := .inl (by rw [State.dataBase, hidx]; exact hin)
  refine ⟨_, exec_loadRegs_inRange x hinu, fun r hr => ?_⟩
  rw [effect_loadRegs_getV u hr, hmem, hidx, effect_storeRegs_read s hr]

/-- DXYN, FX33, FX55 and FX65 check their data addresses from I before anything else (decision D14 of the
spec). -/
theorem exec_eq_checkData {i : Instr} {n : Nat} (s : State)
    (h : (∃ x y, i = .drw x y n) ∨ (∃ x, i = .ldB x ∧ n = 3) ∨
      ∃ x, (i = .storeRegs x ∨ i = .loadRegs x) ∧ n = x.toNat + 1) :
    ∃ go, exec i s = checkData s i s.dataBase n go := by
  obtain ⟨x, y, rfl⟩ | ⟨x, rfl, rfl⟩ | ⟨x, rfl | rfl, rfl⟩ := h
  all_goals exact ⟨_, rfl⟩

/-- Settles O41: the smallest address outside is I, or 4096 when I is below it. -/
theorem dataOutOfBoundsFaults : Obligations.DataOutOfBoundsFaults := by
  intro i n s hi hn hout
  obtain ⟨go, he⟩ := exec_eq_checkData s hi
  refine ⟨max s.idx.toNat 4096, le_max_right _ _, le_max_left _ _, max_lt (by omega) hout,
    fun b hb hlo => max_le hlo hb, he.trans (checkData_outside hout hn)⟩

end Sys2Proof.Machine
